-- ==== Sys2Proof/Word.lean ====
section
/-! DEFINITION. The word types of the block: a TEXT byte, a 16-bit port or index register, a 128-bit register, and
the (hi, lo) pair of the double-width arithmetic unit (00_scope.md R11, R16; 42_decimal_fraction.md R154). -/

namespace Sys2Proof

/-- One TEXT cell (20_memory.md R50). -/
abbrev Byte := BitVec 8

/-- CMD, LEN, the span bounds and the 16-bit ports (10_state.md R21 to R23, R30). -/
abbrev U16 := BitVec 16

/-- RESULT, FRAC_FIELD, INT_FIELD, MAG and the native width of the double-width unit. -/
abbrev U128 := BitVec 128

/-- A 256-bit value held as two u128 halves, `hi × 2^128 + lo` (42_decimal_fraction.md R154, R156). -/
structure Pair where
  hi : U128
  lo : U128
deriving DecidableEq, Repr

end Sys2Proof
end

