-- ==== Sys2Proof/Config.lean ====
section
/-! DEFINITION. What an implementation fixes and what the spec leaves open. Every constant without a body is a free
value: nothing can evaluate it, so a claim holds whatever it is (00_scope.md R10; 93_implementation_defined.md I3, I6, I7,
I8). The bodies beside them only keep the bounds the spec sets. -/

namespace Sys2Proof.Config

/-- TEXT_MAX_LEN less one. -/
opaque textMaxLenLessOne : Fin 65535

/-- TEXT_MAX_LEN, the size of the text buffer, `1 ≤ TEXT_MAX_LEN ≤ 65535` (R10, I7; log entry 10). -/
def textMaxLen : Nat := textMaxLenLessOne.val + 1

/-- The constant a, less one, of the bound `LATENCY ≤ a + b × LEN` (70_reset_and_hazards.md R279). -/
opaque latencyBase : Nat

/-- The constant b of the same bound. -/
opaque latencyPerByte : Nat

/-- What the implementation takes for a request, before the bound: CMD, LEN and the literal's bytes. -/
opaque latencyWish : U16 → U16 → List Byte → Nat

/-- LATENCY(req): the edges from an accepted legal start to the edge that enters DONE. Finite, at least 1, at most
`a + b × LEN` (R10, R279, I6; log entry 3). -/
def latency (cmd len : U16) (text : List Byte) : Nat :=
  1 + min (latencyWish cmd len text) (latencyBase + latencyPerByte * len.toNat)

/-- How many stages the sequencer completes at an edge that does not enter DONE, by the number of that edge: phases may
last several cycles and may be merged (10_state.md R25, R34; log entry 4). -/
opaque stagesAtEdge : Nat → Nat

/-- The byte a TEXT cell holds from power-up until it is first written: which power-up contents, and the index
(20_memory.md R53, I3; log entry 1). -/
opaque powerUpByte : Nat → Nat → Byte

/-- The value of dv on a byte that no radix has as a digit; 30_encoding.md R80 gives none and no transaction reads it
(log entry 16). -/
opaque nonDigitValue : Byte → Nat

/-- N_INSTANCES less one. -/
opaque instancesLessOne : Nat

/-- N_INSTANCES, the number of decoders that share the ROM, at least 1 (R10, I8; log entry 11). -/
def nInstances : Nat := instancesLessOne + 1

end Sys2Proof.Config
end

