-- ==== Sys2Proof/Syntax.lean ====
section
/-! DEFINITION. The operations of the block as syntax, one constructor for each row of spec/opcode_table.json
(30_encoding.md R82). -/

namespace Sys2Proof

/-- The total widths the WIDTH field can name (00_scope.md R6; 30_encoding.md R72). -/
inductive Width where
  | w8 | w16 | w32 | w64 | w128
deriving DecidableEq, Repr

/-- `W = 8 << WIDTH` (30_encoding.md R72). -/
def Width.bits : Width → Nat
  | .w8 => 8
  | .w16 => 16
  | .w32 => 32
  | .w64 => 64
  | .w128 => 128

/-- One operation with its operand fields: WIDTH and the 8-bit FRAC field, whose value is F (30_encoding.md R74, R82). The
literal's text is the third operand and stands in TEXT. -/
inductive Instr where
  /-- PARSE.U.B2 (45_operations.md R212). -/
  | parseUB2 (width : Width) (frac : BitVec 8)
  /-- PARSE.U.B8 (R213). -/
  | parseUB8 (width : Width) (frac : BitVec 8)
  /-- PARSE.U.B10 (R214). -/
  | parseUB10 (width : Width) (frac : BitVec 8)
  /-- PARSE.U.B16 (R215). -/
  | parseUB16 (width : Width) (frac : BitVec 8)
  /-- PARSE.S.B2 (R216). -/
  | parseSB2 (width : Width) (frac : BitVec 8)
  /-- PARSE.S.B8 (R217). -/
  | parseSB8 (width : Width) (frac : BitVec 8)
  /-- PARSE.S.B10 (R218). -/
  | parseSB10 (width : Width) (frac : BitVec 8)
  /-- PARSE.S.B16 (R219). -/
  | parseSB16 (width : Width) (frac : BitVec 8)
deriving DecidableEq, Repr

/-- The WIDTH operand. -/
def Instr.width : Instr → Width
  | .parseUB2 w _ | .parseUB8 w _ | .parseUB10 w _ | .parseUB16 w _ => w
  | .parseSB2 w _ | .parseSB8 w _ | .parseSB10 w _ | .parseSB16 w _ => w

/-- The FRAC operand. -/
def Instr.frac : Instr → BitVec 8
  | .parseUB2 _ f | .parseUB8 _ f | .parseUB10 _ f | .parseUB16 _ f => f
  | .parseSB2 _ f | .parseSB8 _ f | .parseSB10 _ f | .parseSB16 _ f => f

/-- FROM_STR.U stands for PARSE.U.B10 (30_encoding.md R84; 45_operations.md R220). -/
def Instr.fromStrU (width : Width) (frac : BitVec 8) : Instr := .parseUB10 width frac

/-- FROM_STR.S stands for PARSE.S.B10 (R84, R220). -/
def Instr.fromStrS (width : Width) (frac : BitVec 8) : Instr := .parseSB10 width frac

end Sys2Proof
end

