-- ==== Sys2Proof/WellFormed.lean ====
section
/-! DEFINITION. Which terms of Instr are operations of the block. The type Width leaves the reserved WIDTH codes out, and
RSVD has no place in a term, so one check is left: FRAC is legal up to W (30_encoding.md R74, R76). -/

namespace Sys2Proof

/-- `F ≤ W` (30_encoding.md R74, R76). -/
def Instr.wellFormed (i : Instr) : Bool :=
  decide (i.frac.toNat ≤ i.width.bits)

end Sys2Proof
end

