-- ==== Sys2Proof/Decode.lean ====
section
/-! DEFINITION. The command descriptor CMD (30_encoding.md R70 to R76, R82): its fields, the decoder, total on every
16-bit word and rejecting by name, and the encoder; then the request of R83 with its assembly to CMD, LEN and TEXT. -/

namespace Sys2Proof

/-- BASE = CMD[1:0] (R70). -/
def cmdBase (cmd : U16) : BitVec 2 := cmd.extractLsb' 0 2

/-- WIDTH = CMD[4:2] (R70). -/
def cmdWidth (cmd : U16) : BitVec 3 := cmd.extractLsb' 2 3

/-- SIGNED = CMD[5] (R70, R73). -/
def cmdSigned (cmd : U16) : Bool := cmd.getLsbD 5

/-- FRAC = CMD[13:6] (R70, R74). -/
def cmdFrac (cmd : U16) : BitVec 8 := cmd.extractLsb' 6 8

/-- RSVD = CMD[15:14] (R70, R75). -/
def cmdRsvd (cmd : U16) : BitVec 2 := cmd.extractLsb' 14 2

/-- WIDTH decode (R72): codes 5, 6 and 7 are reserved. -/
def decodeWidth (code : BitVec 3) : Option Width :=
  match code.toNat with
  | 0 => some .w8
  | 1 => some .w16
  | 2 => some .w32
  | 3 => some .w64
  | 4 => some .w128
  | _ => none

/-- The WIDTH code of a total width (R72, R83: `log2(w) − 3`). -/
def encodeWidth : Width → BitVec 3
  | .w8 => 0
  | .w16 => 1
  | .w32 => 2
  | .w64 => 3
  | .w128 => 4

/-- Why a descriptor is illegal (R86). -/
inductive IllegalCmd where
  /-- RSVD is not 00 (R75). -/
  | reservedBits
  /-- WIDTH is 5, 6 or 7 (R72). -/
  | reservedWidth
  /-- FRAC exceeds W (R74). -/
  | fracExceedsWidth
deriving DecidableEq, Repr

/-- What the decoder answers on a descriptor. -/
inductive Decoded where
  | instr (i : Instr)
  | illegal (why : IllegalCmd)
deriving DecidableEq, Repr

/-- The operation that SIGNED and BASE select (R71, R73, R82). -/
def selectInstr (signed : Bool) (base : BitVec 2) (width : Width) (frac : BitVec 8) : Instr :=
  match signed, base.toNat with
  | false, 0 => .parseUB2 width frac
  | false, 1 => .parseUB8 width frac
  | false, 2 => .parseUB10 width frac
  | false, _ => .parseUB16 width frac
  | true, 0 => .parseSB2 width frac
  | true, 1 => .parseSB8 width frac
  | true, 2 => .parseSB10 width frac
  | true, _ => .parseSB16 width frac

/-- Decode a descriptor. The legality of CMD is R76 less its clause on LEN. -/
def decode (cmd : U16) : Decoded :=
  if cmdRsvd cmd ≠ 0 then .illegal .reservedBits
  else
    match decodeWidth (cmdWidth cmd) with
    | none => .illegal .reservedWidth
    | some w =>
      if (cmdFrac cmd).toNat ≤ w.bits then
        .instr (selectInstr (cmdSigned cmd) (cmdBase cmd) w (cmdFrac cmd))
      else .illegal .fracExceedsWidth

/-- SIGNED of an operation (R82). -/
def Instr.signedBit : Instr → BitVec 1
  | .parseUB2 _ _ | .parseUB8 _ _ | .parseUB10 _ _ | .parseUB16 _ _ => 0
  | .parseSB2 _ _ | .parseSB8 _ _ | .parseSB10 _ _ | .parseSB16 _ _ => 1

/-- BASE of an operation (R82). -/
def Instr.baseCode : Instr → BitVec 2
  | .parseUB2 _ _ | .parseSB2 _ _ => 0
  | .parseUB8 _ _ | .parseSB8 _ _ => 1
  | .parseUB10 _ _ | .parseSB10 _ _ => 2
  | .parseUB16 _ _ | .parseSB16 _ _ => 3

/-- The descriptor of an operation, `(f << 6) | (S << 5) | (log2(w) − 3) << 2 | BASE`, pattern `00FFFFFFFFSWWWBB` (R70, R82,
R83). -/
def encode (i : Instr) : U16 :=
  (i.frac.setWidth 16 <<< 6) ||| (i.signedBit.setWidth 16 <<< 5)
    ||| ((encodeWidth i.width).setWidth 16 <<< 2) ||| i.baseCode.setWidth 16

/-- The `match` column of the operation map (R82). -/
def Instr.matchWord : Instr → U16
  | .parseUB2 _ _ => 0x0000
  | .parseUB8 _ _ => 0x0001
  | .parseUB10 _ _ => 0x0002
  | .parseUB16 _ _ => 0x0003
  | .parseSB2 _ _ => 0x0020
  | .parseSB8 _ _ => 0x0021
  | .parseSB10 _ _ => 0x0022
  | .parseSB16 _ _ => 0x0023

/-- The mask of the operation map: the RSVD, SIGNED and BASE bits (R82). -/
def opcodeMask : U16 := 0xC023

/-- The instruction the decoder reads from the opcode table's bits: a descriptor is one 16-bit word. -/
def decodeTableWord (nbits w : Nat) : Option Instr :=
  match decode (BitVec.ofNat 16 (w % 2 ^ nbits)) with
  | .instr i => some i
  | .illegal _ => none

/-- The mnemonic, as spec/opcode_table.json spells it (R82). -/
def Instr.mnemonic : Instr → String
  | .parseUB2 _ _ => "PARSE.U.B2"
  | .parseUB8 _ _ => "PARSE.U.B8"
  | .parseUB10 _ _ => "PARSE.U.B10"
  | .parseUB16 _ _ => "PARSE.U.B16"
  | .parseSB2 _ _ => "PARSE.S.B2"
  | .parseSB8 _ _ => "PARSE.S.B8"
  | .parseSB10 _ _ => "PARSE.S.B10"
  | .parseSB16 _ _ => "PARSE.S.B16"

/-- A request: one operation and its literal (R83). DESIGN CHOICE, unsafe: F is the 8-bit FRAC field, so there is no Request
with an F above 255, whose CMD by R83's formula would spill into RSVD or past bit 15 (log entry 20). -/
structure Request where
  instr : Instr
  text : List Byte
deriving DecidableEq, Repr

/-- `CMD = (f << 6) | (S << 5) | (log2(w) − 3) << 2 | BASE` (R83). -/
def Request.cmd (q : Request) : U16 := encode q.instr

/-- `LEN = byte length of text` (R83). DESIGN CHOICE, unsafe: a text of more than 65535 bytes, for which R83 gives no LEN, has
its length modulo 2^16 (log entry 18). -/
def Request.len (q : Request) : U16 := BitVec.ofNat 16 q.text.length

/-- One hexadecimal digit of an escape, in capitals. -/
def hexDigit (n : Nat) : Char :=
  if n < 10 then Char.ofNat (0x30 + n) else Char.ofNat (0x41 + (n - 10))

/-- A literal byte in the request syntax: itself, or `\xHH` (R83). DESIGN CHOICE: the control bytes, the quote and the
backslash are escaped too, so that the quoted string can be read back (log entry 19). -/
def byteSyntax (b : Byte) : List Char :=
  if 0x20 ≤ b.toNat ∧ b.toNat < 0x7F ∧ b.toNat ≠ 0x22 ∧ b.toNat ≠ 0x5C then [Char.ofNat b.toNat]
  else ['\\', 'x', hexDigit (b.toNat / 16), hexDigit (b.toNat % 16)]

/-- The request written out: `PARSE.<U|S>.B<r> W<w> F<f> "<text>"` (R83). -/
def Request.assembly (q : Request) : String :=
  q.instr.mnemonic ++ " W" ++ toString q.instr.width.bits ++ " F" ++ toString q.instr.frac.toNat ++ " \""
    ++ String.ofList (q.text.flatMap byteSyntax) ++ "\""

/-- The layout's name, `I<i>F<f>` or `U<i>F<f>` (R83, 93_implementation_defined.md G7). DESIGN CHOICE: with F above W, which no
layout has, i is 0 (log entry 21). -/
def Instr.layoutName (i : Instr) : String :=
  (if i.signedBit = 1 then "I" else "U") ++ toString (i.width.bits - i.frac.toNat) ++ "F" ++ toString i.frac.toNat

end Sys2Proof
end

