-- ==== Sys2Proof/Machine/State.lean ====
section
/-! DEFINITION. The state of the block as plain data (10_state.md R20 to R39), the reasons a step can stop, and the
machine right after reset. -/

namespace Sys2Proof.Machine

/-- The phase sequencer's six values (10_state.md R24; codes 6 and 7 are never entered, 93_implementation_defined.md
I10). -/
inductive Phase where
  | idle | tokenize | fraction | integer | assemble | done
deriving DecidableEq, Repr

/-- The five error kinds (60_exceptions.md R240). -/
inductive ErrorKind where
  /-- R241. -/
  | invalidDigit
  /-- R242. -/
  | noDigits
  /-- R243. -/
  | tooManyPoints
  /-- R244. -/
  | overflow
  /-- R245. -/
  | configInvalid
deriving DecidableEq, Repr

/-- The STATUS register: OK or one error kind (30_encoding.md R77; codes 5 and 6 are never produced, I2). -/
inductive Status where
  | ok
  | error (e : ErrorKind)
deriving DecidableEq, Repr

/-- The input ports at one rising edge (10_state.md R21). -/
structure PortIn where
  rst : Bool
  start : Bool
  cmdIn : U16
  lenIn : U16
  twEn : Bool
  twAddr : U16
  twData : Byte
deriving DecidableEq, Repr

/-- All inputs 0. -/
def PortIn.quiet : PortIn :=
  { rst := false, start := false, cmdIn := 0, lenIn := 0, twEn := false, twAddr := 0, twData := 0 }

/-- The output ports (10_state.md R21, R28). -/
structure PortOut where
  busy : Bool
  done : Bool
  status : BitVec 3
  result : U128
deriving DecidableEq, Repr

/-- The TEXT buffer: the cells written since power-up, indices strictly rising. A cell not listed was never written
(20_memory.md R50, R53; log entry 1). -/
abbrev Memory := List Host.Cell

/-- Everything the spec gives the block, and four fields of the model's own. -/
structure State where
  /-- CMD (R22). -/
  cmd : U16
  /-- LEN (R23). -/
  len : U16
  /-- PHASE (R24). -/
  phase : Phase
  /-- STATUS (R26). -/
  status : Status
  /-- RESULT (R27). -/
  result : U128
  /-- NEG (R29). -/
  neg : Bool
  /-- INT_LO (R30). -/
  intLo : U16
  /-- INT_HI (R30). -/
  intHi : U16
  /-- FRAC_LO (R30). -/
  fracLo : U16
  /-- FRAC_HI (R30). -/
  fracHi : U16
  /-- FRAC_FIELD (R31). -/
  fracField : U128
  /-- CARRY (R31). -/
  carry : Bool
  /-- INT_FIELD (R32). -/
  intField : U128
  /-- MAG (R33). -/
  mag : U128
  /-- TEXT (20_memory.md R50). -/
  text : Memory
  /-- The model's own: which power-up contents of TEXT this machine has (log entry 1). -/
  textDraw : Nat
  /-- The model's own: the input ports at the coming edges; past the end every input is 0 (log entry 2). -/
  inputs : List PortIn
  /-- The model's own: the edges still to come before the running transaction is in DONE (log entry 3). -/
  busyLeft : Nat
  /-- The model's own: how many edges there have been, the argument of the free pace of the phases (log entry 4). -/
  tick : Nat
deriving DecidableEq, Repr

/-- Why a step stops with a fault. -/
inductive Fault where
  /-- Raised by a converter stage whose span reaches outside TEXT[0..LEN−1], which 20_memory.md R52 says the block never
  reads. No run reaches it: phase TOKENIZE writes the spans within LEN. Safe (log entry 17). -/
  | spanOutsideLiteral
deriving DecidableEq, Repr

/-- Why a step is refused. -/
inductive Refusal where
  /-- Raised by an arm of exec whose instruction has no meaning yet; no arm does. Safe. -/
  | notModelled (mnemonic : String)
  /-- Raised by phase FRACTION when wide_div's precondition `dv ≠ 0 ∧ nh < dv` is broken (42_decimal_fraction.md R155,
  I5). No run reaches it (R153). Safe (log entry 9). -/
  | wideDivPrecondition
deriving DecidableEq, Repr

/-- The machine right after reset (10_state.md R39): every register at the spec's value, TEXT with nothing written, and
the model's own fields at the values their log entries name. -/
def State.reset : State :=
  { cmd := 0, len := 0, phase := .idle, status := .ok, result := 0
    neg := false, intLo := 0, intHi := 0, fracLo := 0, fracHi := 0
    fracField := 0, carry := false, intField := 0, mag := 0
    text := [], textDraw := 0, inputs := [], busyLeft := 0, tick := 0 }

end Sys2Proof.Machine
end

