-- ==== Sys2Proof/Machine/Flags.lean ====
section
/-! DEFINITION. The register codes the ports show (10_state.md R24; 30_encoding.md R77) and the output ports with the
status flags busy and done (R28, R38). -/

namespace Sys2Proof.Machine

/-- The PHASE register's value (10_state.md R24). -/
def Phase.code : Phase → BitVec 3
  | .idle => 0
  | .tokenize => 1
  | .fraction => 2
  | .integer => 3
  | .assemble => 4
  | .done => 5

/-- The busy phases are 1 to 4 (R28). -/
def Phase.isBusy : Phase → Bool
  | .tokenize | .fraction | .integer | .assemble => true
  | .idle | .done => false

/-- The code of an error kind (60_exceptions.md R240). -/
def ErrorKind.code : ErrorKind → BitVec 3
  | .invalidDigit => 1
  | .noDigits => 2
  | .tooManyPoints => 3
  | .overflow => 4
  | .configInvalid => 7

/-- The STATUS register's value (30_encoding.md R77). -/
def Status.code : Status → BitVec 3
  | .ok => 0
  | .error e => e.code

/-- The output `busy` (R28). -/
def busyOut (s : State) : Bool := s.phase.isBusy

/-- The output `done` (R28). -/
def doneOut (s : State) : Bool := decide (s.phase = .done)

/-- The output ports, combinational functions of the registers (R28). -/
def outputs (s : State) : PortOut :=
  { busy := busyOut s, done := doneOut s, status := s.status.code, result := s.result }

end Sys2Proof.Machine
end

