-- ==== Sys2Proof/Machine/Operands.lean ====
section
/-! DEFINITION. The operand forms of an operation: the base_selector_mux (45_operations.md R210), the derived layout values
(30_encoding.md R85), the legality predicate (R76), characters and digits (R78 to R80), and the working width after
half-width delegation (00_scope.md R13; 42_decimal_fraction.md R141; 43_integer_converter.md R172). -/

namespace Sys2Proof.Machine

/-- The four BASE codes (30_encoding.md R71). -/
inductive Base where
  | b2 | b8 | b10 | b16
deriving DecidableEq, Repr

/-- The radix r (R71). -/
def Base.radix : Base → Nat
  | .b2 => 2
  | .b8 => 8
  | .b10 => 10
  | .b16 => 16

/-- FSEL of the base_selector_mux; EXACT comes with the bits per digit d (R210). -/
inductive FractionSelect where
  | exact (d : Nat)
  | decimal
deriving DecidableEq, Repr

/-- The base_selector_mux's choice of converter (R71, R121, R210). -/
def Base.fractionSelect : Base → FractionSelect
  | .b2 => .exact 1
  | .b8 => .exact 3
  | .b10 => .decimal
  | .b16 => .exact 4

/-- What the stages read of CMD: r, S (also NEG_OK), W and F (30_encoding.md R85). -/
structure Operation where
  base : Base
  signed : Bool
  width : Width
  frac : Nat
deriving DecidableEq, Repr

/-- `IB = W − F` (00_scope.md R8). -/
def Operation.intBits (op : Operation) : Nat := op.width.bits - op.frac

/-- The layout values of a decoded descriptor (R71, R73, R85). -/
def operationOf : Instr → Operation
  | .parseUB2 w f => { base := .b2, signed := false, width := w, frac := f.toNat }
  | .parseUB8 w f => { base := .b8, signed := false, width := w, frac := f.toNat }
  | .parseUB10 w f => { base := .b10, signed := false, width := w, frac := f.toNat }
  | .parseUB16 w f => { base := .b16, signed := false, width := w, frac := f.toNat }
  | .parseSB2 w f => { base := .b2, signed := true, width := w, frac := f.toNat }
  | .parseSB8 w f => { base := .b8, signed := true, width := w, frac := f.toNat }
  | .parseSB10 w f => { base := .b10, signed := true, width := w, frac := f.toNat }
  | .parseSB16 w f => { base := .b16, signed := true, width := w, frac := f.toNat }

/-- CmdLegal(CMD, LEN), word for word (30_encoding.md R76). -/
def cmdLegal (cmd len : U16) : Bool :=
  decide (cmdRsvd cmd = 0 ∧ (cmdWidth cmd).toNat ≤ 4
    ∧ (cmdFrac cmd).toNat ≤ 8 <<< (cmdWidth cmd).toNat ∧ len.toNat ≤ Config.textMaxLen)

/-- What is left of CmdLegal once the descriptor is an Operation: the type leaves RSVD and the reserved WIDTH codes out
(R76, R211). -/
def operationLegal (op : Operation) (len : U16) : Bool :=
  decide (op.frac ≤ op.width.bits ∧ len.toNat ≤ Config.textMaxLen)

/-- `.` (30_encoding.md R78). -/
def charPoint : Byte := 0x2E

/-- `+` (R78). -/
def charPlus : Byte := 0x2B

/-- `-` (R78). -/
def charMinus : Byte := 0x2D

/-- `0`, the digit that leading-zero stripping removes (R78; 43_integer_converter.md R171). -/
def charZero : Byte := 0x30

/-- `isDigit(c, r)` (R79). -/
def isDigit (base : Base) (c : Byte) : Bool :=
  let n := c.toNat
  match base with
  | .b2 => decide (n = 0x30 ∨ n = 0x31)
  | .b8 => decide (0x30 ≤ n ∧ n ≤ 0x37)
  | .b10 => decide (0x30 ≤ n ∧ n ≤ 0x39)
  | .b16 => decide ((0x30 ≤ n ∧ n ≤ 0x39) ∨ (0x41 ≤ n ∧ n ≤ 0x46) ∨ (0x61 ≤ n ∧ n ≤ 0x66))

/-- `dv(c)` (R80); a byte that is no digit has a free value (log entry 16). -/
def digitValue (c : Byte) : Nat :=
  let n := c.toNat
  if 0x30 ≤ n ∧ n ≤ 0x39 then n - 0x30
  else if 0x41 ≤ n ∧ n ≤ 0x46 then n - 0x41 + 10
  else if 0x61 ≤ n ∧ n ≤ 0x66 then n - 0x61 + 10
  else Config.nonDigitValue c

/-- `FW(n)`, the smallest width that holds n bits, for `n ≤ 128` (00_scope.md R13). -/
def smallestWidth (n : Nat) : Width :=
  if n ≤ 8 then .w8
  else if n ≤ 16 then .w16
  else if n ≤ 32 then .w32
  else if n ≤ 64 then .w64
  else .w128

/-- The next narrower converter of the chain 128 → 64 → 32 → 16 → 8. -/
def narrower : Width → Width
  | .w128 => .w64
  | .w64 => .w32
  | .w32 => .w16
  | .w16 => .w8
  | .w8 => .w8

/-- Half-width delegation with a bound on its depth: while the width is above 8 and n bits fit in half of it, hand over
(42_decimal_fraction.md R141; 43_integer_converter.md R172). -/
def delegateWithin : Nat → Width → Nat → Width
  | 0, w, _ => w
  | depth + 1, w, n => if 8 < w.bits ∧ n ≤ w.bits / 2 then delegateWithin depth (narrower w) n else w

/-- The converter the chain ends at. Four hand-overs lead from 128 to 8. -/
def delegate (w : Width) (n : Nat) : Width := delegateWithin 4 w n

end Sys2Proof.Machine
end

