-- ==== Sys2Proof/Machine/Ops.lean ====
section
/-! DEFINITION. The named operations over TEXT and the registers that everything else is written with: the TEXT read and
write (20_memory.md R51, R52), error entry (60_exceptions.md R247), reset (70_reset_and_hazards.md R270), the accepted
start (45_operations.md R221), and each stage's write of its registers. -/

namespace Sys2Proof.Machine

/-- What a cell holds, `none` if nothing has been written to it since power-up. -/
def Memory.lookup : Memory → Nat → Option Byte
  | [], _ => none
  | cell :: rest, i => if i = cell.1 then some cell.2 else Memory.lookup rest i

/-- One byte stored, in its place. -/
def Memory.store : Memory → Nat → Byte → Memory
  | [], i, b => [(i, b)]
  | cell :: rest, i, b =>
    if i < cell.1 then (i, b) :: cell :: rest
    else if i = cell.1 then (i, b) :: rest
    else cell :: Memory.store rest i b

/-- The canonical form: indices strictly rising. A cell that is not listed reads as "not written since power-up", which is
no byte, so no entry can equal it (log entry 1). -/
def Memory.wf : Memory → Bool
  | [] => true
  | [_] => true
  | a :: b :: rest => decide (a.1 < b.1) && Memory.wf (b :: rest)

/-- `MemRead(i, 1)` (00_scope.md R13; 20_memory.md R52): the last byte written, or the free power-up byte (R53). -/
def readText (s : State) (i : Nat) : Byte :=
  (Memory.lookup s.text i).getD (Config.powerUpByte s.textDraw i)

/-- `MemWrite(i, 1, b)` (00_scope.md R13; 20_memory.md R51). -/
def writeText (i : Nat) (b : Byte) (s : State) : State :=
  { s with text := Memory.store s.text i b }

/-- The literal TEXT[0..LEN−1] for a given length (20_memory.md R55). -/
def textPrefix (s : State) (len : Nat) : List Byte :=
  (List.range len).map (readText s)

/-- The running request's literal (10_state.md R23). -/
def literalBytes (s : State) : List Byte := textPrefix s s.len.toNat

/-- The bytes of a half-open span `[lo, hi)`, if it is a span within the literal (10_state.md R30; 20_memory.md R52). -/
def readSpan (s : State) (lo hi : U16) : Option (List Byte) :=
  if lo.toNat ≤ hi.toNat ∧ hi.toNat ≤ s.len.toNat then
    some ((List.range' lo.toNat (hi.toNat - lo.toNat)).map (readText s))
  else none

/-- Error entry, `raise E` (60_exceptions.md R247). There is no return: the next accepted start begins afresh (R248). -/
def raiseError (e : ErrorKind) (s : State) : State :=
  { s with status := .error e, result := 0, phase := .done }

/-- Every register at its reset value; TEXT keeps its bytes, a running transaction is abandoned
(70_reset_and_hazards.md R270). -/
def resetRegisters (s : State) : State :=
  { s with
    cmd := 0, len := 0, phase := .idle, status := .ok, result := 0
    neg := false, intLo := 0, intHi := 0, fracLo := 0, fracHi := 0
    fracField := 0, carry := false, intField := 0, mag := 0, busyLeft := 0 }

/-- The input ports at this edge: the next of the list, or all 0 (log entry 2). -/
def currentInput (s : State) : PortIn := s.inputs.headD .quiet

/-- The edge's input is used up and the edge counted (log entries 2 and 4). -/
def nextEdge (s : State) : State :=
  { s with inputs := s.inputs.tail, tick := s.tick + 1 }

/-- The countdown of LATENCY (log entry 3). -/
def setBusyLeft (n : Nat) (s : State) : State := { s with busyLeft := n }

/-- The TEXT write port at one edge: performed in IDLE and DONE with an index inside TEXT, else dropped
(20_memory.md R51). -/
def writePort (p : PortIn) (s : State) : State :=
  if p.twEn = true ∧ s.phase.isBusy = false ∧ p.twAddr.toNat < Config.textMaxLen then
    writeText p.twAddr.toNat p.twData s
  else s

/-- What an accepted start latches and clears (45_operations.md R221, step 3). -/
def latchRequest (p : PortIn) (s : State) : State :=
  { s with cmd := p.cmdIn, len := p.lenIn, status := .ok, result := 0 }

/-- PHASE to TOKENIZE, with the edges of LATENCY to come (R221; 00_scope.md R10). -/
def beginTransaction (latency : Nat) (s : State) : State :=
  { s with phase := .tokenize, busyLeft := latency }

/-- An accepted start: the stages begin, or ConfigInvalid at this very edge, with no TEXT read (R221;
60_exceptions.md R245). -/
def acceptStart (p : PortIn) (s : State) : State :=
  if cmdLegal p.cmdIn p.lenIn = true then
    beginTransaction (Config.latency p.cmdIn p.lenIn (textPrefix s p.lenIn.toNat)) (latchRequest p s)
  else raiseError .configInvalid (latchRequest p s)

/-- The Literal record: NEG and the two spans (10_state.md R29, R30). -/
structure LiteralRecord where
  neg : Bool
  intLo : Nat
  intHi : Nat
  fracLo : Nat
  fracHi : Nat
deriving DecidableEq, Repr

/-- The tokenizer's outputs, and PHASE to FRACTION (40_tokenizer.md R109). -/
def setLiteral (r : LiteralRecord) (s : State) : State :=
  { s with
    neg := r.neg
    intLo := BitVec.ofNat 16 r.intLo, intHi := BitVec.ofNat 16 r.intHi
    fracLo := BitVec.ofNat 16 r.fracLo, fracHi := BitVec.ofNat 16 r.fracHi
    phase := .fraction }

/-- What a fraction converter answers: FRAC_FIELD and CARRY (10_state.md R31). -/
structure Fraction where
  field : U128
  carry : Bool
deriving DecidableEq, Repr

/-- A fraction converter's outputs, and PHASE to INTEGER (R31; 10_state.md R25). -/
def setFraction (r : Fraction) (s : State) : State :=
  { s with fracField := r.field, carry := r.carry, phase := .integer }

/-- The integer converter's output, and PHASE to ASSEMBLE (43_integer_converter.md R179). -/
def setIntField (v : U128) (s : State) : State :=
  { s with intField := v, phase := .assemble }

/-- The raw magnitude (44_assembler.md R190). -/
def setMag (v : U128) (s : State) : State := { s with mag := v }

/-- The transaction ends in OK: RESULT, STATUS and PHASE (R196). -/
def deliver (out : U128) (s : State) : State :=
  { s with result := out, status := .ok, phase := .done }

/-- The next stage, if the one before it did not stop. -/
def andThen (o : Host.Outcome State Fault Refusal) (f : State → Host.Outcome State Fault Refusal) :
    Host.Outcome State Fault Refusal :=
  match o with
  | .next s => f s
  | .fault r => .fault r
  | .refused r => .refused r

end Sys2Proof.Machine
end

