-- ==== Sys2Proof/Machine/Assembler.lean ====
section
/-! DEFINITION. magnitude_assembler and the signed side of the overflow_detector (44_assembler.md R190 to R196). -/

namespace Sys2Proof.Machine

/-- The largest magnitude a signed layout takes (R192). -/
def signedBound (w : Width) (neg : Bool) : Nat :=
  if neg then 2 ^ (w.bits - 1) else 2 ^ (w.bits - 1) - 1

/-- The final pattern of a magnitude, or Overflow O5 (R191, R192, R193). -/
def applySign (op : Operation) (neg : Bool) (mag : U128) : Option U128 :=
  if op.signed then
    if signedBound op.width neg < mag.toNat then none
    else if neg then some (BitVec.ofNat 128 ((2 ^ op.width.bits - mag.toNat) % 2 ^ op.width.bits))
    else some mag
  else some mag

/-- Phase ASSEMBLE (R196). MAG is written whatever the outcome; the fields are disjoint, so OR joins them (R190). -/
def assembleStage (op : Operation) (s : State) : State :=
  let joined := setMag (s.intField ||| s.fracField) s
  match applySign op joined.neg joined.mag with
  | some out => deliver out joined
  | none => raiseError .overflow joined

end Sys2Proof.Machine
end

