-- ==== Sys2Proof/Machine/DoubleWidth.lean ====
section
/-! DEFINITION. double_width_arithmetic_unit (42_decimal_fraction.md R154 to R156): exact products and quotients of u128
values, and 256-bit values held as pairs. -/

namespace Sys2Proof.Machine

/-- The low half of a u128, as a u128. -/
def lowHalf (x : U128) : U128 := x &&& 0xFFFFFFFFFFFFFFFF

/-- The high half of a u128, as a u128. -/
def highHalf (x : U128) : U128 := x >>> 64

/-- `wide_mul(x, y)` from four 64×64 partial products, combined with carry propagation (R154). -/
def wideMul (x y : U128) : Pair :=
  let p00 := lowHalf x * lowHalf y
  let p01 := lowHalf x * highHalf y
  let p10 := highHalf x * lowHalf y
  let p11 := highHalf x * highHalf y
  let mid := highHalf p00 + lowHalf p01 + lowHalf p10
  { hi := p11 + highHalf p01 + highHalf p10 + highHalf mid
    lo := (mid <<< 64) ||| lowHalf p00 }

/-- `wide_div(nh, nl, dv)`, none where the precondition `dv ≠ 0 ∧ nh < dv` is broken (R155, I5). -/
def wideDiv (nh nl dv : U128) : Option U128 :=
  if dv ≠ 0 ∧ nh < dv then
    some (BitVec.ofNat 128 ((nh.toNat * 2 ^ 128 + nl.toNat) / dv.toNat))
  else none

/-- Add with carry: the low halves first, their carry-out into the high halves (R156). DESIGN CHOICE, unsafe: a sum of 2^256
or more, for which R156 gives no value, is taken modulo 2^256 (log entry 22). -/
def pairAdd (a b : Pair) : Pair :=
  let lo := a.lo + b.lo
  { hi := a.hi + b.hi + (if lo < b.lo then 1 else 0), lo := lo }

/-- Add a u128 to a pair, the carry going on into the high half (R149, R151). -/
def pairAddLow (p : Pair) (v : U128) : Pair := pairAdd p { hi := 0, lo := v }

/-- The natural a pair stands for (R154, R156). -/
def pairNat (p : Pair) : Nat := p.hi.toNat * 2 ^ 128 + p.lo.toNat

/-- Shift left (R150, R156). DESIGN CHOICE, unsafe: a result of 2^256 or more, for which R156 gives no value, is taken modulo
2^256 (log entry 22). -/
def pairShl (p : Pair) (n : Nat) : Pair :=
  if n < 128 then { hi := (p.hi <<< n) ||| (p.lo >>> (128 - n)), lo := p.lo <<< n }
  else { hi := p.lo <<< (n - 128), lo := 0 }

/-- Shift right (R150, R156). -/
def pairShr (p : Pair) (n : Nat) : Pair :=
  if n < 128 then { hi := p.hi >>> n, lo := (p.lo >>> n) ||| (p.hi <<< (128 - n)) }
  else { hi := 0, lo := p.hi >>> (n - 128) }

/-- Compare, `a ≥ b` (R152, R156). -/
def pairGe (a b : Pair) : Bool :=
  decide (b.hi < a.hi) || (decide (a.hi = b.hi) && decide (b.lo ≤ a.lo))

end Sys2Proof.Machine
end

