-- ==== Sys2Proof/Machine/Rom.lean ====
section
/-! DEFINITION. The constant ROM: DIVTAB and TEN27 (10_state.md R35 to R37). Nothing writes it, so it is no part of State
(log entry 12). -/

namespace Sys2Proof.Machine

/-- One row of DIVTAB: the digit limit, the pre-shift, the divisor and its half (R35). -/
structure DivRow where
  k : Nat
  sh : Nat
  d : Nat
  hd : Nat
deriving DecidableEq, Repr

/-- `RomRead(w)` (00_scope.md R13; 10_state.md R35). -/
def romRead : Width → DivRow
  | .w8 => { k := 3, sh := 6, d := 250, hd := 125 }
  | .w16 => { k := 6, sh := 11, d := 31250, hd := 15625 }
  | .w32 => { k := 13, sh := 20, d := 2441406250, hd := 1220703125 }
  | .w64 => { k := 27, sh := 38, d := 14901161193847656250, hd := 7450580596923828125 }
  | .w128 =>
    { k := 54, sh := 75
      d := 111022302462515654042363166809082031250
      hd := 55511151231257827021181583404541015625 }

/-- TEN27 (R36). -/
def ten27 : U128 := 0x33B2E3C9FD0803CE8000000

end Sys2Proof.Machine
end

