-- ==== Sys2Proof/Machine/DecimalFraction.lean ====
section
/-! DEFINITION. decimal_fraction_converter_with_odd_divisor (42_decimal_fraction.md R140 to R158). Widths up to 64 compute on
naturals, which fit the 2w-bit datapath (R157; log entry 14); width 128 runs on pairs (R148 to R153). -/

namespace Sys2Proof.Machine

/-- The digit capture: exactly k digits, zeros after the last one, digits past k not read (R143, R144, R147). -/
def captureFrom : Nat → List Nat → Nat → Nat
  | 0, _, a => a
  | k + 1, [], a => captureFrom k [] (a * 10)
  | k + 1, v :: rest, a => captureFrom k rest (a * 10 + v)

/-- The captured k-digit natural (R143). -/
def capture (k : Nat) (digits : List Nat) : Nat := captureFrom k digits 0

/-- The datapath of R144 at a working width up to 64. -/
def decimalNarrow (w : Width) (f : Nat) (digits : List Nat) : Fraction :=
  let row := romRead w
  let shifted := (capture row.k digits <<< row.sh) >>> (w.bits - f)
  let rounded := shifted + row.hd
  if row.d ≤ rounded >>> f then { field := 0, carry := true }
  else { field := BitVec.ofNat 128 (rounded / row.d), carry := false }

/-- The 128-bit datapath from the two 27-digit chunks (R148): join (R149), shift (R150), rounding add (R151), carry test
(R152), division (R153). None where wide_div's precondition is broken (R155). -/
def decimalWide (f : Nat) (digits : List Nat) : Option Fraction :=
  let row := romRead .w128
  let hi : U128 := BitVec.ofNat 128 (capture 27 digits)
  let lo : U128 := BitVec.ofNat 128 (capture 27 (digits.drop 27))
  let joined := pairAddLow (wideMul hi ten27) lo
  let shifted := pairShr (pairShl joined row.sh) (128 - f)
  let rounded := pairAddLow shifted (BitVec.ofNat 128 row.hd)
  if pairGe (pairShr rounded f) { hi := 0, lo := BitVec.ofNat 128 row.d } then
    some { field := 0, carry := true }
  else
    (wideDiv rounded.hi rounded.lo (BitVec.ofNat 128 row.d)).map fun q => { field := q, carry := false }

/-- DECIMAL_FRACTION on digit values, at the working width the delegation chain ends at, which F alone decides (R141,
R144). -/
def decimalFraction (total : Width) (f : Nat) (digits : List Nat) : Option Fraction :=
  match delegate total f with
  | .w128 => decimalWide f digits
  | w => some (decimalNarrow w f digits)

end Sys2Proof.Machine
end

