-- ==== Sys2Proof/Machine/ExactFraction.lean ====
section
/-! DEFINITION. binary_octal_hex_fraction_converter (41_exact_fraction.md R120 to R131). Its accumulator is a natural: the
working width does not change the result (R122; log entry 14). -/

namespace Sys2Proof.Machine

/-- The boundary digit, with `rem < d`: the kept top bits shifted in, the next bit rounds (R124), and a sum of 2^F is one
whole unit (R125). -/
def boundaryDigit (d f rem acc v : Nat) : Fraction :=
  let kept := (acc <<< rem) + (v >>> (d - rem))
  let rounded := if (v >>> (d - rem - 1)) &&& 1 = 1 then kept + 1 else kept
  if 2 ^ f ≤ rounded then { field := 0, carry := true }
  else { field := BitVec.ofNat 128 rounded, carry := false }

/-- The digit loop (R123): later digits are not read once the boundary digit is met (R129); digits that run out are
left-aligned in the field (R126). -/
def exactLoop (d f : Nat) : List Nat → Nat → Nat → Fraction
  | [], rem, acc => { field := BitVec.ofNat 128 (acc <<< rem), carry := false }
  | v :: rest, rem, acc =>
    if rem < d then boundaryDigit d f rem acc v
    else exactLoop d f rest (rem - d) ((acc <<< d) + v)

/-- EXACT_FRACTION on digit values (R123). -/
def exactFraction (d f : Nat) (digits : List Nat) : Fraction := exactLoop d f digits f 0

end Sys2Proof.Machine
end

