-- ==== Sys2Proof/Machine/IntegerConvert.lean ====
section
/-! DEFINITION. integer_converter_chain and rounding_carry_propagator (43_integer_converter.md R170 to R180), and the
integer side of the overflow_detector: `none` is Overflow, O1 to O4 (44_assembler.md R195). -/

namespace Sys2Proof.Machine

/-- Strip leading `0` bytes (R171). -/
def stripZeros (digits : List Byte) : List Byte := digits.dropWhile fun c => decide (c = charZero)

/-- The parse loop in radix r into a wI-bit value, Overflow as soon as it does not fit (R174, O2). -/
def parseInteger (r wI : Nat) : List Byte → Nat → Option Nat
  | [], v => some v
  | c :: rest, v =>
    if 2 ^ wI ≤ v * r + digitValue c then none else parseInteger r wI rest (v * r + digitValue c)

/-- The rounding_carry_propagator's add of one unit, checked against the working width (R175, R180, O3). -/
def addCarry (wI : Nat) (carry : Bool) (v : Nat) : Option Nat :=
  if carry then (if 2 ^ wI ≤ v + 1 then none else some (v + 1)) else some v

/-- INTEGER_CONVERT (R179): the top-aligned integer field, or Overflow. IB = 0 takes only an empty stripped span and no
carry (R173, O1); a bit at or above IB is Overflow (R176, O4). -/
def integerConvert (op : Operation) (carry : Bool) (digits : List Byte) : Option Nat :=
  let stripped := stripZeros digits
  if op.intBits = 0 then
    (if stripped = [] ∧ carry = false then some 0 else none)
  else
    let wI := (delegate op.width op.intBits).bits
    match parseInteger op.base.radix wI stripped 0 with
    | none => none
    | some v =>
      match addCarry wI carry v with
      | none => none
      | some v' => if 2 ^ op.intBits ≤ v' then none else some (v' <<< op.frac)

end Sys2Proof.Machine
end

