-- ==== Sys2Proof/Machine/Tokenizer.lean ====
section
/-! DEFINITION. literal_tokenizer, phase TOKENIZE (40_tokenizer.md R100 to R111). -/

namespace Sys2Proof.Machine

/-- The scan state (R101). -/
structure Scan where
  signSeen : Bool
  neg : Bool
  digitSeen : Bool
  pointAt : Option Nat
deriving DecidableEq, Repr

/-- The scan state at the first byte (R101). -/
def scanStart : Scan := { signSeen := false, neg := false, digitSeen := false, pointAt := none }

/-- A sign may not stand after a sign, a digit or a point (R103, R104). -/
def Scan.signTooLate (st : Scan) : Bool := st.signSeen || st.digitSeen || st.pointAt.isSome

/-- One byte of the scan: point (R102), plus (R103), minus (R104), digit (R105), other (R106). -/
def scanByte (base : Base) (negOk : Bool) (i : Nat) (c : Byte) (st : Scan) : Except ErrorKind Scan :=
  if c = charPoint then
    if st.pointAt.isSome then .error .tooManyPoints else .ok { st with pointAt := some i }
  else if c = charPlus then
    if st.signTooLate then .error .invalidDigit else .ok { st with signSeen := true }
  else if c = charMinus then
    if !negOk || st.signTooLate then .error .invalidDigit else .ok { st with signSeen := true, neg := true }
  else if isDigit base c then .ok { st with digitSeen := true }
  else .error .invalidDigit

/-- The scan from index i on; the first byte that raises ends it (R107). -/
def scan (base : Base) (negOk : Bool) : Nat → List Byte → Scan → Except ErrorKind Scan
  | _, [], st => .ok st
  | i, c :: rest, st =>
    match scanByte base negOk i c st with
    | .ok st' => scan base negOk (i + 1) rest st'
    | .error e => .error e

/-- The Literal record of a finished scan (R109). -/
def literalRecord (len : Nat) (st : Scan) : LiteralRecord :=
  let lo := if st.signSeen then 1 else 0
  match st.pointAt with
  | none => { neg := st.neg, intLo := lo, intHi := len, fracLo := len, fracHi := len }
  | some p => { neg := st.neg, intLo := lo, intHi := p, fracLo := p + 1, fracHi := len }

/-- TOKENIZE on the literal's bytes (R111); no digit at all raises NoDigits after the scan (R108). -/
def tokenize (base : Base) (negOk : Bool) (text : List Byte) : Except ErrorKind LiteralRecord :=
  match scan base negOk 0 text scanStart with
  | .error e => .error e
  | .ok st => if st.digitSeen then .ok (literalRecord text.length st) else .error .noDigits

/-- Phase TOKENIZE (R111). -/
def tokenizeStage (op : Operation) (s : State) : State :=
  match tokenize op.base op.signed (literalBytes s) with
  | .ok r => setLiteral r s
  | .error e => raiseError e s

end Sys2Proof.Machine
end

