-- ==== Sys2Proof/Machine/Stages.lean ====
section
/-! DEFINITION. The phases in sequence (10_state.md R25): one stage, the stages an edge inside a transaction completes, and
all that are left up to DONE, which is Decode of 45_operations.md R211 when none has run yet. -/

namespace Sys2Proof.Machine

/-- Phase FRACTION: the base_selector_mux starts exactly one converter (R210). -/
def fractionStage (op : Operation) (s : State) : Host.Outcome State Fault Refusal :=
  match readSpan s s.fracLo s.fracHi with
  | none => .fault .spanOutsideLiteral
  | some bytes =>
    match op.base.fractionSelect with
    | .exact d => .next (setFraction (exactFraction d op.frac (bytes.map digitValue)) s)
    | .decimal =>
      match decimalFraction op.width op.frac (bytes.map digitValue) with
      | some r => .next (setFraction r s)
      | none => .refused .wideDivPrecondition

/-- Phase INTEGER (43_integer_converter.md R179). -/
def integerStage (op : Operation) (s : State) : Host.Outcome State Fault Refusal :=
  match readSpan s s.intLo s.intHi with
  | none => .fault .spanOutsideLiteral
  | some bytes =>
    match integerConvert op s.carry bytes with
    | some v => .next (setIntField (BitVec.ofNat 128 v) s)
    | none => .next (raiseError .overflow s)

/-- The stage of the present phase; IDLE and DONE run nothing (10_state.md R24, R25). -/
def runStage (op : Operation) (s : State) : Host.Outcome State Fault Refusal :=
  match s.phase with
  | .idle => .next s
  | .tokenize => .next (tokenizeStage op s)
  | .fraction => fractionStage op s
  | .integer => integerStage op s
  | .assemble => .next (assembleStage op s)
  | .done => .next s

/-- Up to n stages, stopping before the one that would enter DONE: the phase it belongs to lasts on (R25; log entry 4). -/
def advance (op : Operation) : Nat → State → Host.Outcome State Fault Refusal
  | 0, s => .next s
  | n + 1, s =>
    match runStage op s with
    | .next t => if t.phase = .done then .next s else advance op n t
    | .fault r => .fault r
    | .refused r => .refused r

/-- Every stage still to come: four lead from TOKENIZE to DONE (R25, R211). -/
def runToDone (op : Operation) (s : State) : Host.Outcome State Fault Refusal :=
  andThen (andThen (andThen (runStage op s) (runStage op)) (runStage op)) (runStage op)

/-- An operation's whole effect on a running transaction: R211's check of the descriptor, then the stages. With no
transaction running it changes nothing, DEDUCED (log entry 5). -/
def runOperation (op : Operation) (s : State) : Host.Outcome State Fault Refusal :=
  if s.phase.isBusy = false then .next s
  else if operationLegal op s.len = true then runToDone op s
  else .next (raiseError .configInvalid s)

/-- An edge inside a transaction that does not enter DONE: the sequencer completes as many stages as it likes, none
included (log entry 4). -/
def holdEdge (op : Operation) (s : State) : Host.Outcome State Fault Refusal :=
  if operationLegal op s.len = true then advance op (Config.stagesAtEdge s.tick) s
  else .next (raiseError .configInvalid s)

end Sys2Proof.Machine
end

