-- ==== Sys2Proof/Machine/ParseSigned.lean ====
section
/-! DEFINITION. The signed operations (45_operations.md R216 to R219): each is Decode of R211 with its radix, its fraction
converter and S = 1. -/

namespace Sys2Proof.Machine

/-- PARSE.S.B2 (45_operations.md R216). -/
def execParseSB2 (width : Width) (frac : BitVec 8) (s : State) : Host.Outcome State Fault Refusal :=
  runOperation { base := .b2, signed := true, width := width, frac := frac.toNat } s

/-- PARSE.S.B8 (45_operations.md R217). -/
def execParseSB8 (width : Width) (frac : BitVec 8) (s : State) : Host.Outcome State Fault Refusal :=
  runOperation { base := .b8, signed := true, width := width, frac := frac.toNat } s

/-- PARSE.S.B10 (45_operations.md R218). -/
def execParseSB10 (width : Width) (frac : BitVec 8) (s : State) : Host.Outcome State Fault Refusal :=
  runOperation { base := .b10, signed := true, width := width, frac := frac.toNat } s

/-- PARSE.S.B16 (45_operations.md R219). -/
def execParseSB16 (width : Width) (frac : BitVec 8) (s : State) : Host.Outcome State Fault Refusal :=
  runOperation { base := .b16, signed := true, width := width, frac := frac.toNat } s

end Sys2Proof.Machine
end

