-- ==== Sys2Proof/Machine/ParseUnsigned.lean ====
section
/-! DEFINITION. The unsigned operations (45_operations.md R212 to R215): each is Decode of R211 with its radix, its fraction
converter and S = 0. -/

namespace Sys2Proof.Machine

/-- PARSE.U.B2 (45_operations.md R212). -/
def execParseUB2 (width : Width) (frac : BitVec 8) (s : State) : Host.Outcome State Fault Refusal :=
  runOperation { base := .b2, signed := false, width := width, frac := frac.toNat } s

/-- PARSE.U.B8 (45_operations.md R213). -/
def execParseUB8 (width : Width) (frac : BitVec 8) (s : State) : Host.Outcome State Fault Refusal :=
  runOperation { base := .b8, signed := false, width := width, frac := frac.toNat } s

/-- PARSE.U.B10 (45_operations.md R214). -/
def execParseUB10 (width : Width) (frac : BitVec 8) (s : State) : Host.Outcome State Fault Refusal :=
  runOperation { base := .b10, signed := false, width := width, frac := frac.toNat } s

/-- PARSE.U.B16 (45_operations.md R215). -/
def execParseUB16 (width : Width) (frac : BitVec 8) (s : State) : Host.Outcome State Fault Refusal :=
  runOperation { base := .b16, signed := false, width := width, frac := frac.toNat } s

end Sys2Proof.Machine
end

