-- ==== Sys2Proof/Machine/Dispatch.lean ====
section
/-! DEFINITION. One arm for each operation, one direct call of its meaning. -/

namespace Sys2Proof.Machine

def exec (i : Instr) (s : State) : Host.Outcome State Fault Refusal :=
  match i with
  | .parseUB2 width frac => Sys2Proof.Machine.execParseUB2 width frac s
  | .parseUB8 width frac => Sys2Proof.Machine.execParseUB8 width frac s
  | .parseUB10 width frac => Sys2Proof.Machine.execParseUB10 width frac s
  | .parseUB16 width frac => Sys2Proof.Machine.execParseUB16 width frac s
  | .parseSB2 width frac => Sys2Proof.Machine.execParseSB2 width frac s
  | .parseSB8 width frac => Sys2Proof.Machine.execParseSB8 width frac s
  | .parseSB10 width frac => Sys2Proof.Machine.execParseSB10 width frac s
  | .parseSB16 width frac => Sys2Proof.Machine.execParseSB16 width frac s

end Sys2Proof.Machine
end

