-- ==== Sys2Proof/Machine/Clock.lean ====
section
/-! DEFINITION. One rising edge of clk (45_operations.md R221): reset first, then the TEXT write, then an accepted start or
an edge of the running transaction. -/

namespace Sys2Proof.Machine

/-- An edge of a running transaction (R221, step 5): the operation is the one CMD encodes (30_encoding.md R85). The last
edge of LATENCY runs it to DONE; an earlier one advances the phases. A descriptor that is not legal, which R85 lets every
busy phase assume away, ends as the first line of R211 says (log entry 8). -/
def busyEdge (s : State) : Host.Outcome State Fault Refusal :=
  match decode s.cmd with
  | .illegal _ => .next (raiseError .configInvalid (setBusyLeft 0 s))
  | .instr i =>
    if s.busyLeft ≤ 1 then exec i (setBusyLeft 0 s)
    else holdEdge (operationOf i) (setBusyLeft (s.busyLeft - 1) s)

/-- An edge with no transaction running: a start is accepted, else IDLE or DONE holds (R221, steps 3 and 6). -/
def restEdge (p : PortIn) (s : State) : State :=
  if p.start = true then acceptStart p s else s

/-- One rising edge (R221). Start and TEXT writes go by the phase before the edge. -/
def clockEdge (s : State) : Host.Outcome State Fault Refusal :=
  let p := currentInput s
  let s0 := nextEdge s
  if p.rst = true then .next (resetRegisters s0)
  else if s0.phase.isBusy = true then busyEdge s0
  else .next (restEdge p (writePort p s0))

/-- A descriptor word placed where the next edge takes its operation from: latched in CMD, PHASE at TOKENIZE, the last edge
of its LATENCY next, and the inputs of that edge 0. It stands for a start accepted at the edge before (log entry 6). -/
def placeCommand (s : State) (cmd : U16) : State :=
  { s with cmd := cmd, phase := .tokenize, busyLeft := 1, inputs := .quiet :: s.inputs }

end Sys2Proof.Machine
end

