-- ==== Sys2Proof/Machine/Step.lean ====
section
/-! DEFINITION. One step is one rising edge of clk (10_state.md R21; 45_operations.md R221). -/

namespace Sys2Proof.Machine

/-- One rising edge. -/
def step (s : State) : Host.Outcome State Fault Refusal := clockEdge s

/-- The descriptor of the opcode table's bits, placed so that the very next step runs it. -/
def State.withFetchWord (s : State) (nbits w : Nat) : State :=
  placeCommand s (BitVec.ofNat 16 (w % 2 ^ nbits))

end Sys2Proof.Machine
end

