-- ==== Sys2Proof/Machine/HostPort.lean ====
section
/-! DEFINITION. What the host does on the ports: the boot sequence of 70_reset_and_hazards.md R272 and the loading of a
request (30_encoding.md R83; 20_memory.md R51). -/

namespace Sys2Proof.Machine

/-- One edge of reset (R270, R272 step 1). -/
def PortIn.reset : PortIn := { PortIn.quiet with rst := true }

/-- One TEXT write (20_memory.md R51). -/
def PortIn.write (i : Nat) (b : Byte) : PortIn :=
  { PortIn.quiet with twEn := true, twAddr := BitVec.ofNat 16 i, twData := b }

/-- One start (R221). -/
def PortIn.begin (cmd len : U16) : PortIn :=
  { PortIn.quiet with start := true, cmdIn := cmd, lenIn := len }

/-- The literal written a byte an edge, from index i on (R272 step 2). -/
def writeEdges : Nat → List Byte → List PortIn
  | _, [] => []
  | i, b :: rest => PortIn.write i b :: writeEdges (i + 1) rest

/-- A request loaded and started: its bytes, then one start edge (R83, R272 steps 2 and 3). -/
def requestEdges (q : Request) : List PortIn :=
  writeEdges 0 q.text ++ [PortIn.begin q.cmd q.len]

/-- The whole boot sequence of R272. -/
def bootEdges (q : Request) : List PortIn := PortIn.reset :: requestEdges q

end Sys2Proof.Machine
end

