-- ==== Sys2Proof/Machine/Instances.lean ====
section
/-! DEFINITION. N_INSTANCES decoders on one clock (00_scope.md R10; 20_memory.md R64; 60_exceptions.md R254). Each has its
own ports, registers and TEXT; only the constant ROM is shared, so an edge of the row is an edge of each (log entry
11). -/

namespace Sys2Proof.Machine

/-- A row of decoders. -/
structure Row where
  members : List State
deriving DecidableEq, Repr

/-- The row has N_INSTANCES members (R10). -/
def Row.complete (r : Row) : Bool := decide (r.members.length = Config.nInstances)

/-- One rising edge of the common clock: the outcome of every member, in order (R254). -/
def Row.edge (r : Row) : List (Host.Outcome State Fault Refusal) := r.members.map step

end Sys2Proof.Machine
end

