-- ==== Sys2Proof/Machine/Flat.lean ====
section
/-! DEFINITION. What the operations compute, as plain arithmetic with no phase, datapath or scan state: the literal grammar
(30_encoding.md R81), positional values (20_memory.md R55), rounding (00_scope.md R15), and the flat form of Decode
(45_operations.md R211; 43_integer_converter.md R178; 44_assembler.md R195). exec calls none of it: claims compare the
machine with it. -/

namespace Sys2Proof.Machine

/-- The value of digits in radix r, most significant first (20_memory.md R55; 43_integer_converter.md R171). -/
def digitsValue (r : Nat) (digits : List Nat) : Nat := digits.foldl (fun v d => v * r + d) 0

/-- `rhu(n / d) = floor(n / d + 1/2)` (00_scope.md R15). -/
def roundHalfUp (n d : Nat) : Nat := (2 * n + d) / (2 * d)

/-- The first k digits, padded on the right with zeros to k (42_decimal_fraction.md R143). -/
def firstDigits (k : Nat) (digits : List Nat) : List Nat :=
  digits.take k ++ List.replicate (k - digits.length) 0

/-- q, the fraction in units of 2^−F, rounded half up: of the exact digits for a power-of-two radix (41_exact_fraction.md
R128), of the first k(FW(F)) digits for radix 10 (42_decimal_fraction.md R146, R147). 2^F is one whole unit. -/
def fractionUnits (base : Base) (f : Nat) (digits : List Nat) : Nat :=
  match base with
  | .b10 =>
    let k := (romRead (smallestWidth f)).k
    roundHalfUp (digitsValue 10 (firstDigits k digits) * 2 ^ f) (10 ^ k)
  | b => roundHalfUp (digitsValue b.radix digits * 2 ^ f) (b.radix ^ digits.length)

/-- A literal taken apart: its sign and the digits of its two spans. -/
structure Parts where
  neg : Bool
  int : List Byte
  frac : List Byte
deriving DecidableEq, Repr

/-- An optional sign; `-` only where it is allowed (R81). -/
def splitSign (negOk : Bool) (text : List Byte) : Bool × List Byte :=
  match text with
  | [] => (false, [])
  | c :: rest =>
    if c = charPlus then (false, rest)
    else if c = charMinus ∧ negOk = true then (true, rest)
    else (false, text)

/-- The error of a byte that ends a span too early: a second point, or a byte out of place (40_tokenizer.md R102 to
R106). -/
def strayByte (c : Byte) : ErrorKind := if c = charPoint then .tooManyPoints else .invalidDigit

/-- At least one digit in total (R81, R108). -/
def partsOrNoDigits (p : Parts) : Except ErrorKind Parts :=
  if p.int = [] ∧ p.frac = [] then .error .noDigits else .ok p

/-- `literal ::= sign? digit* ("." digit*)?` read by its grammar (R81), or the error of the first byte that does not fit
(R107). -/
def splitLiteral (base : Base) (negOk : Bool) (text : List Byte) : Except ErrorKind Parts :=
  let (neg, body) := splitSign negOk text
  let int := body.takeWhile (isDigit base)
  match body.dropWhile (isDigit base) with
  | [] => partsOrNoDigits { neg := neg, int := int, frac := [] }
  | c :: afterInt =>
    if c = charPoint then
      match afterInt.dropWhile (isDigit base) with
      | [] => partsOrNoDigits { neg := neg, int := int, frac := afterInt.takeWhile (isDigit base) }
      | c' :: _ => .error (strayByte c')
    else .error .invalidDigit

/-- The magnitude in units of 2^−F, rounded: `(V + CARRY) × 2^F + FRAC_FIELD` (44_assembler.md R190). -/
def flatMagnitude (op : Operation) (p : Parts) : Nat :=
  digitsValue op.base.radix (p.int.map digitValue) * 2 ^ op.frac
    + fractionUnits op.base op.frac (p.frac.map digitValue)

/-- The largest magnitude of a layout: the signed bound of R192, or every W-bit value. -/
def magnitudeLimit (op : Operation) (neg : Bool) : Nat :=
  if op.signed then signedBound op.width neg else 2 ^ op.width.bits - 1

/-- The raw pattern of a magnitude (44_assembler.md R191, R193). -/
def rawPattern (w : Width) (neg : Bool) (magnitude : Nat) : Nat :=
  if neg then (2 ^ w.bits - magnitude) % 2 ^ w.bits else magnitude

/-- The outcome of a well-formed literal: its rounded value if the layout holds it, else Overflow (R195). -/
def flatValue (op : Operation) (p : Parts) : Status × U128 :=
  if magnitudeLimit op p.neg < flatMagnitude op p then (.error .overflow, 0)
  else (.ok, BitVec.ofNat 128 (rawPattern op.width p.neg (flatMagnitude op p)))

/-- The outcome of a literal under a legal layout (R211). -/
def flatOutcome (op : Operation) (text : List Byte) : Status × U128 :=
  match splitLiteral op.base op.signed text with
  | .error e => (.error e, 0)
  | .ok p => flatValue op p

/-- Decode(CMD, LEN, TEXT) in flat form (R211). -/
def flatDecode (cmd len : U16) (text : List Byte) : Status × U128 :=
  match decode cmd with
  | .illegal _ => (.error .configInvalid, 0)
  | .instr i =>
    if len.toNat ≤ Config.textMaxLen then flatOutcome (operationOf i) text else (.error .configInvalid, 0)

end Sys2Proof.Machine
end

