-- ==== Sys2Proof/Safety.lean ====
section
/-! DEFINITION. The terms claims are made in: the invariant of the block's reachable states, a request that is about to
run, and what no operation touches. -/

namespace Sys2Proof.Machine

/-- The tokenizer has written the spans of the running request: ordered and ending at LEN (40_tokenizer.md R109, R110 d),
every byte of both a digit of the radix (R110 c), and no sign on an unsigned operation (10_state.md R29). -/
structure SpansHold (op : Operation) (s : State) : Prop where
  int_ordered : s.intLo.toNat ≤ s.intHi.toNat
  int_before_frac : s.intHi.toNat ≤ s.fracLo.toNat
  frac_ordered : s.fracLo.toNat ≤ s.fracHi.toNat
  frac_ends_at_len : s.fracHi = s.len
  int_digits : ∀ a, s.intLo.toNat ≤ a → a < s.intHi.toNat → isDigit op.base (readText s a) = true
  frac_digits : ∀ a, s.fracLo.toNat ≤ a → a < s.fracHi.toNat → isDigit op.base (readText s a) = true
  unsigned_has_no_sign : op.signed = false → s.neg = false

/-- The phases that come after the tokenizer and before DONE. -/
def Phase.afterTokenize : Phase → Bool
  | .fraction | .integer | .assemble => true
  | .idle | .tokenize | .done => false

/-- The phases that come after the fraction converter and before DONE. -/
def Phase.afterFraction : Phase → Bool
  | .integer | .assemble => true
  | .idle | .tokenize | .fraction | .done => false

/-- What every reachable state satisfies. -/
structure Inv (s : State) : Prop where
  /-- TEXT keeps its canonical form. -/
  text_wf : Memory.wf s.text = true
  /-- No cell lies outside the buffer (20_memory.md R51). -/
  text_inside : ∀ cell ∈ s.text, cell.1 < Config.textMaxLen
  /-- Every busy phase may assume a legal request (30_encoding.md R85). -/
  busy_legal : s.phase.isBusy = true → cmdLegal s.cmd s.len = true
  /-- A transaction runs exactly while edges of its LATENCY are left (00_scope.md R10). -/
  busy_counted : s.phase.isBusy = true ↔ 1 ≤ s.busyLeft
  /-- STATUS and RESULT are clear until DONE (70_reset_and_hazards.md R277). -/
  clear_until_done : s.phase ≠ .done → s.status = .ok ∧ s.result = 0
  /-- After an error RESULT holds 0 (10_state.md R27). -/
  error_has_no_result : s.status ≠ .ok → s.result = 0
  /-- RESULT[127:W] are zero (20_memory.md R54). -/
  result_fits : s.phase = .done → s.status = .ok →
    ∃ i, decode s.cmd = .instr i ∧ s.result.toNat < 2 ^ i.width.bits
  /-- When CARRY = 1, FRAC_FIELD = 0 (10_state.md R31). -/
  carry_clears_field : s.carry = true → s.fracField = 0
  /-- The spans stand while a converter may read them. -/
  spans : s.phase.afterTokenize = true → ∀ i, decode s.cmd = .instr i → SpansHold (operationOf i) s
  /-- FRAC_FIELD[127:F] are zero (41_exact_fraction.md R130). -/
  frac_fits : s.phase.afterFraction = true → ∀ i, decode s.cmd = .instr i →
    s.fracField.toNat < 2 ^ i.frac.toNat
  /-- INT_FIELD[F−1:0] and [127:W] are zero (10_state.md R32). -/
  int_fits : s.phase = .assemble → ∀ i, decode s.cmd = .instr i →
    2 ^ i.frac.toNat ∣ s.intField.toNat ∧ s.intField.toNat < 2 ^ i.width.bits

/-- A request with this layout stands at the beginning of phase TOKENIZE, legal (30_encoding.md R76). -/
structure AboutToRun (width : Width) (frac : BitVec 8) (s : State) : Prop where
  phase : s.phase = .tokenize
  frac_legal : frac.toNat ≤ width.bits
  len_legal : s.len.toNat ≤ Config.textMaxLen

/-- What no stage of any operation touches: CMD and LEN (60_exceptions.md R247), every byte of TEXT (20_memory.md R52), and
the model's own fields. -/
structure SameRequest (s t : State) : Prop where
  cmd : t.cmd = s.cmd
  len : t.len = s.len
  text : ∀ a, readText t a = readText s a
  cells : t.text = s.text
  textDraw : t.textDraw = s.textDraw
  inputs : t.inputs = s.inputs
  busyLeft : t.busyLeft = s.busyLeft
  tick : t.tick = s.tick

/-- The transaction ends in DONE with this STATUS and RESULT, and leaves everything else the stages do not own as it
was. -/
def EndsWith (o : Host.Outcome State Fault Refusal) (s : State) (outcome : Status × U128) : Prop :=
  ∃ t, o = .next t ∧ t.phase = .done ∧ t.status = outcome.1 ∧ t.result = outcome.2 ∧ SameRequest s t

/-- `literal ::= sign? digit* ("." digit*)?` with at least one digit, and these its parts; `-` only when S = 1
(30_encoding.md R81). -/
def IsLiteral (base : Base) (negOk : Bool) (text : List Byte) (p : Parts) : Prop :=
  ∃ sign tail, text = sign ++ p.int ++ tail
    ∧ ((sign = [] ∧ p.neg = false) ∨ (sign = [charPlus] ∧ p.neg = false)
        ∨ (sign = [charMinus] ∧ negOk = true ∧ p.neg = true))
    ∧ ((tail = [] ∧ p.frac = []) ∨ tail = charPoint :: p.frac)
    ∧ (∀ c ∈ p.int, isDigit base c = true) ∧ (∀ c ∈ p.frac, isDigit base c = true)
    ∧ (p.int ≠ [] ∨ p.frac ≠ [])

/-- CARRY as the unit it adds (43_integer_converter.md R175). -/
def carryUnit (carry : Bool) : Nat := if carry then 1 else 0

/-- The value V of an integer span (43_integer_converter.md R171). -/
def spanValue (base : Base) (digits : List Byte) : Nat := digitsValue base.radix (digits.map digitValue)

/-- A fraction converter's answer for q units of 2^−F, where 2^F is one whole unit (41_exact_fraction.md R128;
42_decimal_fraction.md R146). -/
def IsFractionOf (r : Fraction) (f q : Nat) : Prop :=
  q ≤ 2 ^ f ∧ (q = 2 ^ f → r = { field := 0, carry := true })
    ∧ (q < 2 ^ f → r = { field := BitVec.ofNat 128 q, carry := false })

/-- No reset in the next n edges. -/
def NoResetFor (n : Nat) (s : State) : Prop := ∀ p ∈ s.inputs.take n, p.rst = false

/-- The captured digits' limit at the working width of F (42_decimal_fraction.md R141). -/
def digitLimit (f : Nat) : Nat := (romRead (smallestWidth f)).k

end Sys2Proof.Machine
end

