-- ==== Sys2Proof/Certificates/Slice0/Obligations.lean ====
section
/-! DEFINITION. The statements for the provers: encodings, ports and clock edges, each sub-block against plain arithmetic,
the eight operations against the flat form of Decode, and the whole machine. -/

open Sys2Proof Sys2Proof.Machine

/-! ## Encodings -/

/-- Decoding the encoding of a well-formed operation gives it back, with every operand at every value the descriptor admits
(30_encoding.md R70 to R75, R82). -/
def Obligations.DecodeOfEncodeIsTheOperation : Prop :=
  ∀ i : Instr, i.wellFormed = true → decode (encode i) = .instr i

/-- A descriptor that decodes is the encoding of what it decodes to, which is well formed: no bit is dropped (R70). -/
def Obligations.EncodeOfDecodeIsTheDescriptor : Prop :=
  ∀ (cmd : U16) (i : Instr), decode cmd = .instr i → encode i = cmd ∧ i.wellFormed = true

/-- CmdLegal holds exactly when the descriptor decodes and the length fits TEXT (R76, R86). -/
def Obligations.LegalExactlyWhenDecodable : Prop :=
  ∀ cmd len : U16, cmdLegal cmd len = true ↔
    len.toNat ≤ Config.textMaxLen ∧ ∃ i, decode cmd = .instr i

/-- Each cause of an illegal descriptor is refused under its own name, in the order RSVD, WIDTH, FRAC (R86). -/
def Obligations.IllegalDescriptorsAreNamed : Prop :=
  ∀ cmd : U16,
    (cmd.toNat / 2 ^ 14 ≠ 0 → decode cmd = .illegal .reservedBits)
    ∧ (cmd.toNat / 2 ^ 14 = 0 → 5 ≤ cmd.toNat / 4 % 8 → decode cmd = .illegal .reservedWidth)
    ∧ (cmd.toNat / 2 ^ 14 = 0 → cmd.toNat / 4 % 8 ≤ 4 → 8 * 2 ^ (cmd.toNat / 4 % 8) < cmd.toNat / 64 % 256 →
        decode cmd = .illegal .fracExceedsWidth)

/-- The layout values of a legal descriptor are the fields of CMD (R71 to R74, R85). -/
def Obligations.LayoutValuesAreTheFieldsOfCmd : Prop :=
  ∀ (cmd : U16) (i : Instr), decode cmd = .instr i →
    (operationOf i).width.bits = 8 * 2 ^ (cmd.toNat / 4 % 8)
    ∧ ((operationOf i).signed = true ↔ cmd.toNat / 32 % 2 = 1)
    ∧ (operationOf i).frac = cmd.toNat / 64 % 256
    ∧ (operationOf i).intBits + (operationOf i).frac = (operationOf i).width.bits
    ∧ (operationOf i).base.radix = [2, 8, 10, 16].getD (cmd.toNat % 4) 0

/-- Under the mask 0xC023 a legal descriptor is its operation's `match` word (R82). -/
def Obligations.OpcodeMapSelectsTheOperation : Prop :=
  ∀ (cmd : U16) (i : Instr), decode cmd = .instr i → cmd &&& 0xC023#16 = i.matchWord

/-- Descriptors of 95_test_vectors.md section 2.1 and of the worked examples decode to the operations they stand for. -/
def Obligations.SampleDescriptorsDecode : Prop :=
  decode 0x0100 = .instr (.parseUB2 .w8 4) ∧ decode 0x0101 = .instr (.parseUB8 .w8 4)
  ∧ decode 0x0206 = .instr (Instr.fromStrU .w16 8) ∧ decode 0x0013 = .instr (.parseUB16 .w128 0)
  ∧ decode 0x1FF0 = .instr (.parseSB2 .w128 127) ∧ decode 0x0429 = .instr (.parseSB8 .w32 16)
  ∧ decode 0x2032 = .instr (Instr.fromStrS .w128 128) ∧ decode 0x0227 = .instr (.parseSB16 .w16 8)
  ∧ decode 0x8227 = .illegal .reservedBits ∧ decode 0x0016 = .illegal .reservedWidth
  ∧ decode 0x0240 = .illegal .fracExceedsWidth

/-! ## Ports and clock edges -/

/-- The output ports are these functions of the registers and of no input (10_state.md R28). -/
def Obligations.OutputsFollowTheRegisters : Prop :=
  ∀ s : State,
    ((outputs s).busy = true ↔ s.phase.code = 1 ∨ s.phase.code = 2 ∨ s.phase.code = 3 ∨ s.phase.code = 4)
    ∧ ((outputs s).done = true ↔ s.phase.code = 5)
    ∧ (outputs s).status = s.status.code ∧ (outputs s).result = s.result
    ∧ ∀ ps : List PortIn, outputs { s with inputs := ps } = outputs s

/-- An edge with rst = 1, in any phase and whatever the other inputs: every register at its reset value, TEXT as it was
(70_reset_and_hazards.md R270). -/
def Obligations.ResetEdgeRestoresEveryRegister : Prop :=
  ∀ (s : State) (p : PortIn) (rest : List PortIn), s.inputs = p :: rest → p.rst = true →
    step s = .next { State.reset with
      text := s.text, textDraw := s.textDraw, inputs := rest, tick := s.tick + 1 }

/-- The TEXT write port (20_memory.md R51): performed in IDLE and DONE, also on an edge that accepts a start, whose
transaction then holds the written byte; in the three ignored cases the edge is the edge without the write. -/
def Obligations.TextWritePortWritesOrIsIgnored : Prop :=
  ∀ (s : State) (p : PortIn) (rest : List PortIn), s.inputs = p :: rest → Memory.wf s.text = true → p.twEn = true →
    (p.rst = false → s.phase.isBusy = false → p.twAddr.toNat < Config.textMaxLen →
      ∃ t, step s = .next t
        ∧ ∀ a, readText t a = if a = p.twAddr.toNat then p.twData else readText s a)
    ∧ ((Config.textMaxLen ≤ p.twAddr.toNat ∨ s.phase.isBusy = true ∨ p.rst = true) →
      step s = step { s with inputs := { p with twEn := false } :: rest }
        ∧ ∀ t, step s = .next t → t.text = s.text)

/-- An accepted start with a legal descriptor: CMD and LEN latched, STATUS and RESULT cleared, PHASE at TOKENIZE, LATENCY
edges to come, after the same edge's TEXT write (45_operations.md R221 steps 2 and 3). -/
def Obligations.LegalStartBeginsATransaction : Prop :=
  ∀ (s : State) (p : PortIn) (rest : List PortIn), s.inputs = p :: rest → s.phase.isBusy = false → p.rst = false →
    p.start = true → cmdLegal p.cmdIn p.lenIn = true →
    ∃ t, step s = .next t ∧ t.cmd = p.cmdIn ∧ t.len = p.lenIn ∧ t.status = .ok ∧ t.result = 0 ∧ t.phase = .tokenize
      ∧ t.busyLeft = Config.latency p.cmdIn p.lenIn (literalBytes t) ∧ 1 ≤ t.busyLeft
      ∧ t.text = (writePort p s).text ∧ t.inputs = rest

/-- A start with an illegal descriptor, for each of its four causes: DONE at this edge with ConfigInvalid and RESULT 0, busy
never rises, and no TEXT byte is read: the outcome is the same whatever TEXT holds (60_exceptions.md R245). That every stage
register is as it was is the model's choice (log entry 7). -/
def Obligations.IllegalStartIsConfigInvalid : Prop :=
  ∀ (s : State) (p : PortIn) (rest : List PortIn), s.inputs = p :: rest → s.phase.isBusy = false → p.rst = false →
    p.start = true →
    (cmdRsvd p.cmdIn ≠ 0 ∨ 5 ≤ (cmdWidth p.cmdIn).toNat
      ∨ 8 <<< (cmdWidth p.cmdIn).toNat < (cmdFrac p.cmdIn).toNat ∨ Config.textMaxLen < p.lenIn.toNat) →
    ∃ t, step s = .next t ∧ outputs t = { busy := false, done := true, status := 7, result := 0 }
      ∧ t.cmd = p.cmdIn ∧ t.len = p.lenIn
      ∧ (t.neg, t.intLo, t.intHi, t.fracLo, t.fracHi) = (s.neg, s.intLo, s.intHi, s.fracLo, s.fracHi)
      ∧ (t.fracField, t.carry, t.intField, t.mag) = (s.fracField, s.carry, s.intField, s.mag)
      ∧ ∀ m : Memory, ∃ u, step { s with text := m } = .next u ∧ { u with text := t.text } = t

/-- A start while busy is ignored, with its cmd_in and len_in: the edge is the edge without it, whatever it does
(70_reset_and_hazards.md R274, R275). -/
def Obligations.StartWhileBusyIsIgnored : Prop :=
  ∀ (s : State) (p : PortIn) (rest : List PortIn) (c l : U16), s.inputs = p :: rest → s.phase.isBusy = true →
    step s = step { s with inputs := { p with start := false, cmdIn := c, lenIn := l } :: rest }

/-- A TEXT write while busy is dropped and raises nothing: the edge is the edge without it, and TEXT is unchanged
(70_reset_and_hazards.md R276). -/
def Obligations.TextWriteWhileBusyIsDropped : Prop :=
  ∀ (s : State) (p : PortIn) (rest : List PortIn) (a : U16) (b : Byte), s.inputs = p :: rest → s.phase.isBusy = true →
    step s = step { s with inputs := { p with twEn := false, twAddr := a, twData := b } :: rest }
    ∧ ∀ t, step s = .next t → t.text = s.text

/-- IDLE and DONE hold every register and TEXT while there is no reset, start or write (10_state.md R25; 60_exceptions.md
R255). -/
def Obligations.RestingBlockHoldsItsState : Prop :=
  ∀ (s : State) (p : PortIn) (rest : List PortIn), s.inputs = p :: rest → s.phase.isBusy = false → p.rst = false →
    p.start = false → p.twEn = false → step s = .next { s with inputs := rest, tick := s.tick + 1 }

/-- The last edge of a transaction's LATENCY runs the operation that CMD encodes, an earlier one advances its phases; a
descriptor placed by withFetchWord is run by the very next step (45_operations.md R221 step 5; log entries 4 and 6). -/
def Obligations.StepRunsTheDecodedOperation : Prop :=
  (∀ (s : State) (i : Instr), s.phase.isBusy = true → (currentInput s).rst = false → decode s.cmd = .instr i →
    (s.busyLeft ≤ 1 → step s = exec i (setBusyLeft 0 (nextEdge s)))
    ∧ (2 ≤ s.busyLeft → step s = holdEdge (operationOf i) (setBusyLeft (s.busyLeft - 1) (nextEdge s))))
  ∧ ∀ (s : State) (w : Nat) (i : Instr), decodeTableWord 16 w = some i →
      step (s.withFetchWord 16 w) = exec i { s with
        cmd := BitVec.ofNat 16 w, phase := .tokenize, busyLeft := 0, tick := s.tick + 1 }

/-- While a transaction runs and no reset comes, the sequencer never moves to an earlier phase (10_state.md R25). -/
def Obligations.PhaseNeverMovesBackwards : Prop :=
  ∀ s t : State, s.phase.isBusy = true → (currentInput s).rst = false → step s = .next t →
    s.phase.code.toNat ≤ t.phase.code.toNat ∧ t.phase ≠ .idle

/-- Error entry in any phase: the code of the kind, RESULT 0, DONE, and no other port-visible register
(60_exceptions.md R240, R247). -/
def Obligations.ErrorEntryReportsTheCode : Prop :=
  ∀ (e : ErrorKind) (s : State),
    outputs (raiseError e s) =
      { busy := false, done := true, result := 0
        status := match e with
          | .invalidDigit => 1
          | .noDigits => 2
          | .tooManyPoints => 3
          | .overflow => 4
          | .configInvalid => 7 }
    ∧ (raiseError e s).cmd = s.cmd ∧ (raiseError e s).len = s.len ∧ (raiseError e s).text = s.text

/-! ## Tokenizer -/

/-- A text is accepted exactly when it matches the literal grammar with at least one digit (30_encoding.md R81). -/
def Obligations.TokenizerAcceptsExactlyTheGrammar : Prop :=
  ∀ (base : Base) (negOk : Bool) (text : List Byte),
    (∃ r, tokenize base negOk text = .ok r) ↔ ∃ p, IsLiteral base negOk text p

/-- The spans of an accepted text are in order, are separated by the point if there is one, end at LEN, and are the parts
of the literal (40_tokenizer.md R109, R110). -/
def Obligations.TokenizerFindsTheSpans : Prop :=
  ∀ (base : Base) (negOk : Bool) (text : List Byte) (r : LiteralRecord), tokenize base negOk text = .ok r →
    r.intLo ≤ 1 ∧ r.intLo ≤ r.intHi ∧ r.fracLo ≤ r.fracHi ∧ r.fracHi = text.length
    ∧ ((r.intHi = text.length ∧ r.fracLo = text.length)
        ∨ (r.intHi < r.fracLo ∧ r.fracLo = r.intHi + 1 ∧ text[r.intHi]? = some charPoint))
    ∧ IsLiteral base negOk text
        { neg := r.neg
          int := (text.drop r.intLo).take (r.intHi - r.intLo)
          frac := (text.drop r.fracLo).take (r.fracHi - r.fracLo) }

/-- The first byte that raises ends the scan, and later bytes cannot change the error (40_tokenizer.md R107). -/
def Obligations.FirstErrorWins : Prop :=
  (∀ (base : Base) (negOk : Bool) (seen later : List Byte) (e : ErrorKind),
    scan base negOk 0 seen scanStart = .error e → tokenize base negOk (seen ++ later) = .error e)
  ∧ tokenize .b10 true [0x31, 0x2E, 0x2E, 0x78] = .error .tooManyPoints
  ∧ tokenize .b10 true [0x31, 0x78, 0x2E, 0x2E] = .error .invalidDigit

/-- NoDigits is raised on the empty text, `.`, `+`, `+.`, and with signs allowed on `-` and `-.`, and on no other text
(40_tokenizer.md R108). -/
def Obligations.NoDigitsExactlyOnDigitlessTexts : Prop :=
  ∀ (base : Base) (negOk : Bool) (text : List Byte),
    tokenize base negOk text = .error .noDigits ↔
      (text = [] ∨ text = [charPoint] ∨ text = [charPlus] ∨ text = [charPlus, charPoint])
      ∨ (negOk = true ∧ (text = [charMinus] ∨ text = [charMinus, charPoint]))

/-! ## Exact fraction converter -/

/-- The exact converter rounds the digits' value half up, to a field or to one whole unit (41_exact_fraction.md R128). -/
def Obligations.ExactFractionRoundsHalfUp : Prop :=
  ∀ (d f : Nat) (digits : List Nat), d = 1 ∨ d = 3 ∨ d = 4 → f ≤ 128 → (∀ v ∈ digits, v < 2 ^ d) →
    IsFractionOf (exactFraction d f digits) f
      (roundHalfUp (digitsValue (2 ^ d) digits * 2 ^ f) (2 ^ (d * digits.length)))

/-- An empty fraction span gives FRAC_FIELD = 0 and CARRY = 0 (41_exact_fraction.md R127). -/
def Obligations.EmptyExactFractionIsZero : Prop :=
  ∀ d f : Nat, exactFraction d f [] = { field := 0, carry := false }

/-- Digits after the boundary digit are not read (41_exact_fraction.md R123, R129). -/
def Obligations.DigitsAfterTheBoundaryAreUnread : Prop :=
  ∀ (d f : Nat) (digits later : List Nat), f < d * digits.length →
    exactFraction d f (digits ++ later) = exactFraction d f digits

/-- Two spellings in bases 2, 8 and 16 of one fraction give the same FRAC_FIELD and CARRY; with equal signs and integer
values the whole transaction gives the same outcome (41_exact_fraction.md R131). That the two registers still hold them when
the transaction has ended, after an error too, is the model's choice (log entry 7). -/
def Obligations.PowerOfTwoBasesAgree : Prop :=
  ∀ (a b : Operation) (s u : State) (p q : Parts),
    a.base ≠ .b10 → b.base ≠ .b10 → a.signed = b.signed → a.width = b.width → a.frac = b.frac →
    a.frac ≤ a.width.bits → s.phase = .tokenize → u.phase = .tokenize →
    s.len.toNat ≤ Config.textMaxLen → u.len.toNat ≤ Config.textMaxLen →
    splitLiteral a.base a.signed (literalBytes s) = .ok p → splitLiteral b.base b.signed (literalBytes u) = .ok q →
    spanValue a.base p.frac * b.base.radix ^ q.frac.length = spanValue b.base q.frac * a.base.radix ^ p.frac.length →
    ∃ t v, runOperation a s = .next t ∧ runOperation b u = .next v
      ∧ t.fracField = v.fracField ∧ t.carry = v.carry
      ∧ (p.neg = q.neg → spanValue a.base p.int = spanValue b.base q.int → outputs t = outputs v)

/-! ## Decimal fraction converter and double-width unit -/

/-- Each DIVTAB row: its k, SH = w − k + 1, D = 2 × 5^k, HD = D / 2 = 5^k; and TEN27 = 10^27 (10_state.md R35, R36). -/
def Obligations.RomHoldsTheConstants : Prop :=
  (∀ w : Width, (romRead w).sh = w.bits - (romRead w).k + 1 ∧ (romRead w).d = 2 * 5 ^ (romRead w).k
    ∧ (romRead w).hd = (romRead w).d / 2 ∧ (romRead w).hd = 5 ^ (romRead w).k)
  ∧ (romRead .w8).k = 3 ∧ (romRead .w16).k = 6 ∧ (romRead .w32).k = 13 ∧ (romRead .w64).k = 27
  ∧ (romRead .w128).k = 54 ∧ ten27.toNat = 10 ^ 27

/-- Half-width delegation ends at the smallest width that holds the bits (00_scope.md R13; 42_decimal_fraction.md R141;
43_integer_converter.md R172). -/
def Obligations.DelegationEndsAtTheSmallestWidth : Prop :=
  ∀ (w : Width) (n : Nat), n ≤ w.bits → delegate w n = smallestWidth n

/-- The decimal converter rounds the captured digits half up at every layout (42_decimal_fraction.md R146). -/
def Obligations.DecimalFractionRoundsTheCapturedDigits : Prop :=
  ∀ (total : Width) (f : Nat) (digits : List Nat), f ≤ total.bits → (∀ v ∈ digits, v < 10) →
    ∃ r, decimalFraction total f digits = some r
      ∧ IsFractionOf r f
          (roundHalfUp (digitsValue 10 (firstDigits (digitLimit f) digits) * 2 ^ f) (10 ^ digitLimit f))

/-- The pair datapath of width 128 computes what the natural-number formula does; its division never meets a broken
precondition (42_decimal_fraction.md R144, R148 to R153). -/
def Obligations.WideDatapathComputesTheFormula : Prop :=
  ∀ (f : Nat) (digits : List Nat), f ≤ 128 → (∀ v ∈ digits, v < 10) →
    decimalWide f digits = some (decimalNarrow .w128 f digits)

/-- Digits past the limit k(FW(F)) change nothing (42_decimal_fraction.md R147). -/
def Obligations.DigitsPastTheLimitAreIgnored : Prop :=
  ∀ (total : Width) (f : Nat) (digits later : List Nat), f ≤ total.bits → digits.length = digitLimit f →
    decimalFraction total f (digits ++ later) = decimalFraction total f digits

/-- An empty span or all-zero captured digits give FRAC_FIELD = 0 and CARRY = 0 at every width (42_decimal_fraction.md
R158). -/
def Obligations.ZeroDecimalFractionIsZero : Prop :=
  ∀ (total : Width) (f : Nat) (digits : List Nat), f ≤ total.bits → (∀ v ∈ digits.take (digitLimit f), v = 0) →
    decimalFraction total f digits = some { field := 0, carry := false }

/-- Every intermediate value fits its datapath (42_decimal_fraction.md R157). -/
def Obligations.DecimalDatapathInRange : Prop :=
  (∀ (w : Width) (f : Nat) (digits : List Nat), f ≤ w.bits → (∀ v ∈ digits, v < 10) →
    let row := romRead w
    let sh := (capture row.k digits <<< row.sh) >>> (w.bits - f)
    let rr := sh + row.hd
    capture row.k digits <<< row.sh < 10 ^ row.k * 2 ^ (w.bits - row.k + 1)
    ∧ 10 ^ row.k * 2 ^ (w.bits - row.k + 1) = row.d * 2 ^ w.bits ∧ row.d * 2 ^ w.bits < 2 ^ (2 * w.bits)
    ∧ sh < 2 ^ (2 * w.bits)
    ∧ rr < row.d * 2 ^ w.bits + 5 ^ row.k ∧ row.d * 2 ^ w.bits + 5 ^ row.k < 2 ^ (2 * w.bits)
    ∧ (rr >>> f < row.d → rr / row.d < 2 ^ f ∧ 2 ^ f ≤ 2 ^ w.bits))
  ∧ 2 ^ 254 ≤ (10 ^ 54 - 1) <<< 75 ∧ (10 ^ 54 - 1) <<< 75 < 2 ^ 255

/-- wide_mul is the exact double-width product (42_decimal_fraction.md R154). -/
def Obligations.WideMulIsExact : Prop :=
  ∀ x y : U128, (wideMul x y).hi.toNat * 2 ^ 128 + (wideMul x y).lo.toNat = x.toNat * y.toNat

/-- wide_div gives the quotient, untruncated, exactly under its precondition, and is refused otherwise
(42_decimal_fraction.md R155; 93_implementation_defined.md I5). -/
def Obligations.WideDivQuotientUnderPrecondition : Prop :=
  ∀ nh nl dv : U128,
    (nh.toNat < dv.toNat →
      ∃ q, wideDiv nh nl dv = some q ∧ q.toNat = (nh.toNat * 2 ^ 128 + nl.toNat) / dv.toNat)
    ∧ (dv.toNat ≤ nh.toNat → wideDiv nh nl dv = none)

/-- Dividing a product by one factor gives the other, and the precondition holds (42_decimal_fraction.md R159). -/
def Obligations.WideDivUndoesWideMul : Prop :=
  ∀ x y : U128, y ≠ 0 → (wideMul x y).hi < y ∧ wideDiv (wideMul x y).hi (wideMul x y).lo y = some x

/-- Add, shift left, shift right and compare on pairs are those on the naturals they stand for, as long as the result is
below 2^256 (42_decimal_fraction.md R156). -/
def Obligations.PairPrimitivesAreArithmetic : Prop :=
  ∀ (a b : Pair) (n : Nat),
    (pairNat a + pairNat b < 2 ^ 256 → pairNat (pairAdd a b) = pairNat a + pairNat b)
    ∧ (pairNat a * 2 ^ n < 2 ^ 256 → pairNat (pairShl a n) = pairNat a * 2 ^ n)
    ∧ pairNat (pairShr a n) = pairNat a / 2 ^ n
    ∧ (pairGe a b = true ↔ pairNat b ≤ pairNat a)

/-! ## Integer converter and assembler -/

/-- The integer converter's flat form: delegation, working width and the order of its checks are not observable
(43_integer_converter.md R178). -/
def Obligations.IntegerConverterFlatForm : Prop :=
  ∀ (op : Operation) (carry : Bool) (digits : List Byte), op.frac ≤ op.width.bits →
    (∀ c ∈ digits, isDigit op.base c = true) →
    (2 ^ op.intBits ≤ spanValue op.base digits + carryUnit carry → integerConvert op carry digits = none)
    ∧ (spanValue op.base digits + carryUnit carry < 2 ^ op.intBits →
        integerConvert op carry digits = some ((spanValue op.base digits + carryUnit carry) * 2 ^ op.frac))

/-- Phase ASSEMBLE of a signed layout: Overflow above the bound of the sign, else DONE with the W-bit two's-complement pattern
of the signed magnitude (44_assembler.md R190, R192, R193). That MAG still holds the joined fields in DONE, after Overflow
too, is the model's choice (log entry 7). -/
def Obligations.SignedBoundAndNegation : Prop :=
  ∀ (op : Operation) (s : State), op.signed = true →
    let m := (s.intField ||| s.fracField).toNat
    let bound := if s.neg then 2 ^ (op.width.bits - 1) else 2 ^ (op.width.bits - 1) - 1
    let t := assembleStage op s
    t.mag = s.intField ||| s.fracField
    ∧ (bound < m → outputs t = { busy := false, done := true, status := 4, result := 0 })
    ∧ (m ≤ bound → t.phase = .done ∧ t.status = .ok
        ∧ t.result.toNat = (if s.neg then (2 ^ op.width.bits - m) % 2 ^ op.width.bits else m)
        ∧ (t.result.setWidth op.width.bits).toInt = (if s.neg then -(m : Int) else (m : Int)))

/-! ## The operations -/

/-- PARSE.U.B2, PARSE.U.B8 and PARSE.U.B16 on a legal request run to DONE with the flat outcome of their literal and touch
nothing outside the transaction (45_operations.md R211, R212, R213, R215). -/
def Obligations.UnsignedPowerOfTwoParsesCompute : Prop :=
  ∀ (w : Width) (f : BitVec 8) (s : State), AboutToRun w f s →
    EndsWith (exec (.parseUB2 w f) s) s
      (flatOutcome { base := .b2, signed := false, width := w, frac := f.toNat } (literalBytes s))
    ∧ EndsWith (exec (.parseUB8 w f) s) s
      (flatOutcome { base := .b8, signed := false, width := w, frac := f.toNat } (literalBytes s))
    ∧ EndsWith (exec (.parseUB16 w f) s) s
      (flatOutcome { base := .b16, signed := false, width := w, frac := f.toNat } (literalBytes s))

/-- PARSE.U.B10 on a legal request (R211, R214). -/
def Obligations.UnsignedDecimalParseComputes : Prop :=
  ∀ (w : Width) (f : BitVec 8) (s : State), AboutToRun w f s →
    EndsWith (exec (.parseUB10 w f) s) s
      (flatOutcome { base := .b10, signed := false, width := w, frac := f.toNat } (literalBytes s))

/-- PARSE.S.B2, PARSE.S.B8 and PARSE.S.B16 on a legal request (R211, R216, R217, R219). -/
def Obligations.SignedPowerOfTwoParsesCompute : Prop :=
  ∀ (w : Width) (f : BitVec 8) (s : State), AboutToRun w f s →
    EndsWith (exec (.parseSB2 w f) s) s
      (flatOutcome { base := .b2, signed := true, width := w, frac := f.toNat } (literalBytes s))
    ∧ EndsWith (exec (.parseSB8 w f) s) s
      (flatOutcome { base := .b8, signed := true, width := w, frac := f.toNat } (literalBytes s))
    ∧ EndsWith (exec (.parseSB16 w f) s) s
      (flatOutcome { base := .b16, signed := true, width := w, frac := f.toNat } (literalBytes s))

/-- PARSE.S.B10 on a legal request (R211, R218). -/
def Obligations.SignedDecimalParseComputes : Prop :=
  ∀ (w : Width) (f : BitVec 8) (s : State), AboutToRun w f s →
    EndsWith (exec (.parseSB10 w f) s) s
      (flatOutcome { base := .b10, signed := true, width := w, frac := f.toNat } (literalBytes s))

/-- What an operation leaves in the stage registers when it ends in OK (10_state.md R29 to R33; 44_assembler.md R190). -/
def Obligations.StageRegistersOfAnOkParse : Prop :=
  ∀ (i : Instr) (s t : State), AboutToRun i.width i.frac s → exec i s = .next t → t.status = .ok →
    ∃ p, splitLiteral (operationOf i).base (operationOf i).signed (literalBytes s) = .ok p
      ∧ t.neg = p.neg ∧ readSpan t t.intLo t.intHi = some p.int ∧ readSpan t t.fracLo t.fracHi = some p.frac
      ∧ (t.carry = true → t.fracField = 0) ∧ t.fracField.toNat < 2 ^ i.frac.toNat
      ∧ t.intField.toNat = (spanValue (operationOf i).base p.int + carryUnit t.carry) * 2 ^ i.frac.toNat
      ∧ t.mag = t.intField ||| t.fracField ∧ t.mag.toNat = t.intField.toNat + t.fracField.toNat
      ∧ t.mag.toNat = flatMagnitude (operationOf i) p

/-- A well-formed literal overflows exactly when its value with the rounding carry needs more than IB bits, or its signed
magnitude passes the bound (44_assembler.md R195). That CARRY and FRAC_FIELD can be read after the transaction, after Overflow
too, is the model's choice (log entry 7). -/
def Obligations.OverflowExactlyOutOfRange : Prop :=
  ∀ (i : Instr) (s : State) (p : Parts), AboutToRun i.width i.frac s →
    splitLiteral (operationOf i).base (operationOf i).signed (literalBytes s) = .ok p →
    ∃ t, exec i s = .next t
      ∧ (t.status = .error .overflow ↔
          2 ^ (operationOf i).intBits ≤ spanValue (operationOf i).base p.int + carryUnit t.carry
          ∨ ((operationOf i).signed = true
            ∧ (if p.neg then 2 ^ (i.width.bits - 1) else 2 ^ (i.width.bits - 1) - 1)
              < (spanValue (operationOf i).base p.int + carryUnit t.carry) * 2 ^ i.frac.toNat + t.fracField.toNat))

/-- Every form the descriptor check shuts out, a FRAC above W or a LEN above TEXT_MAX_LEN, ends in ConfigInvalid
(30_encoding.md R86; 45_operations.md R211; the case of a busy phase is log entry 8). -/
def Obligations.IllegalFormsEndInConfigInvalid : Prop :=
  ∀ (i : Instr) (s : State), s.phase.isBusy = true →
    (i.width.bits < i.frac.toNat ∨ Config.textMaxLen < s.len.toNat) →
    exec i s = .next (raiseError .configInvalid s)

/-- With no transaction running, exec of any operation answers the same state. The spec runs no operation then; that exec is
the identity there is the model's choice (log entry 5). -/
def Obligations.NothingRunsOutsideATransaction : Prop :=
  ∀ (i : Instr) (s : State), s.phase.isBusy = false → exec i s = .next s

/-! ## The whole machine -/

/-- The invariant holds right after reset. -/
def Obligations.ResetStateSatisfiesTheInvariant : Prop := Inv State.reset

/-- Every edge keeps the invariant: the canonical TEXT, a legal request while busy, the clear outputs until DONE, RESULT
within W bits, CARRY against FRAC_FIELD, the spans, and the aligned fields (10_state.md R27, R31, R32; 20_memory.md R54;
40_tokenizer.md R110; 70_reset_and_hazards.md R277). The form of TEXT (log entry 1), the countdown of LATENCY (log entry 3) and
what the stage registers hold outside the phases that use them (log entry 7) are the model's choices. -/
def Obligations.EveryEdgeKeepsTheInvariant : Prop :=
  ∀ s t : State, Inv s → step s = .next t → Inv t

/-- From a state of the invariant no edge faults or is refused: the spans lie within the literal (20_memory.md R52) and
wide_div's precondition holds (42_decimal_fraction.md R153). -/
def Obligations.NoEdgeStopsTheMachine : Prop :=
  ∀ s : State, Inv s → ∃ t, step s = .next t

/-- An accepted start, clock edge by clock edge: with no reset, whatever the host does on the other inputs and whatever the
pace of the phases, the block is busy with clear outputs for LATENCY edges and then in DONE with Decode of the request as it
stood at the accepting edge; an illegal descriptor is in DONE at once (45_operations.md R221; 20_memory.md R60, R62;
70_reset_and_hazards.md R279). -/
def Obligations.TransactionDeliversDecode : Prop :=
  ∀ (s : State) (p : PortIn) (rest : List PortIn), s.inputs = p :: rest → s.phase.isBusy = false → p.rst = false →
    p.start = true →
    let text := textPrefix (writePort p s) p.lenIn.toNat
    let latency := Config.latency p.cmdIn p.lenIn text
    (cmdLegal p.cmdIn p.lenIn = true → (∀ q ∈ rest.take latency, q.rst = false) →
      (∀ n, n < latency → ∃ u, Host.Core.run Sys2Proof.core (n + 1) s = .next u
        ∧ outputs u = { busy := true, done := false, status := 0, result := 0 })
      ∧ ∃ t, Host.Core.run Sys2Proof.core (latency + 1) s = .next t ∧ t.phase = .done
          ∧ (t.status, t.result) = flatDecode p.cmdIn p.lenIn text
          ∧ t.cmd = p.cmdIn ∧ t.len = p.lenIn ∧ t.text = (writePort p s).text ∧ t.inputs = rest.drop latency)
    ∧ (cmdLegal p.cmdIn p.lenIn = false → ∃ t, Host.Core.run Sys2Proof.core 1 s = .next t ∧ t.phase = .done
        ∧ (t.status, t.result) = flatDecode p.cmdIn p.lenIn text)

/-- Two running transactions with the same CMD, LEN and literal end with the same STATUS and RESULT, whatever their
latencies, their phases' pace, their other registers and the later inputs (70_reset_and_hazards.md R280). -/
def Obligations.SameRequestSameOutcome : Prop :=
  ∀ s u : State, s.phase = .tokenize → u.phase = .tokenize → cmdLegal s.cmd s.len = true →
    u.cmd = s.cmd → u.len = s.len → literalBytes u = literalBytes s →
    1 ≤ s.busyLeft → 1 ≤ u.busyLeft → NoResetFor s.busyLeft s → NoResetFor u.busyLeft u →
    ∃ t v, Host.Core.run Sys2Proof.core s.busyLeft s = .next t ∧ Host.Core.run Sys2Proof.core u.busyLeft u = .next v
      ∧ t.phase = .done ∧ v.phase = .done ∧ outputs t = outputs v

/-- The host's sequence for a request, from IDLE or DONE: its bytes written one an edge and then a start bring the block to
TOKENIZE with the request's CMD, LEN and literal, every other cell of TEXT as it was (30_encoding.md R83; 20_memory.md R51;
70_reset_and_hazards.md R272). -/
def Obligations.RequestEdgesLoadTheRequest : Prop :=
  ∀ (s : State) (q : Request) (rest : List PortIn), Memory.wf s.text = true → s.phase.isBusy = false →
    q.instr.wellFormed = true → q.text.length ≤ Config.textMaxLen → s.inputs = requestEdges q ++ rest →
    ∃ t, Host.Core.run Sys2Proof.core (q.text.length + 1) s = .next t ∧ t.phase = .tokenize
      ∧ decode t.cmd = .instr q.instr ∧ t.len.toNat = q.text.length ∧ literalBytes t = q.text
      ∧ t.inputs = rest ∧ ∀ a, q.text.length ≤ a → readText t a = readText s a

/-- A member of a row of decoders does at an edge what it does alone, whatever the other members hold (20_memory.md R64;
60_exceptions.md R254). That the row is a list of states on one clock is the model's form of it (log entry 11). -/
def Obligations.InstancesDoNotObserveEachOther : Prop :=
  ∀ (r : Row) (n : Nat), r.edge[n]? = r.members[n]?.map step
end

