-- ==== Sys2Proof/Laws/State.lean ====
section
/-! SUPPORT. One lemma for each field and each named update of State, true by rfl, so that no proof unfolds a record
update. -/

namespace Sys2Proof.Machine

variable (s : State)

@[simp] theorem raiseError_cmd (e : ErrorKind) : (raiseError e s).cmd = s.cmd := rfl
@[simp] theorem raiseError_len (e : ErrorKind) : (raiseError e s).len = s.len := rfl
@[simp] theorem raiseError_phase (e : ErrorKind) : (raiseError e s).phase = .done := rfl
@[simp] theorem raiseError_status (e : ErrorKind) : (raiseError e s).status = .error e := rfl
@[simp] theorem raiseError_result (e : ErrorKind) : (raiseError e s).result = 0 := rfl
@[simp] theorem raiseError_neg (e : ErrorKind) : (raiseError e s).neg = s.neg := rfl
@[simp] theorem raiseError_intLo (e : ErrorKind) : (raiseError e s).intLo = s.intLo := rfl
@[simp] theorem raiseError_intHi (e : ErrorKind) : (raiseError e s).intHi = s.intHi := rfl
@[simp] theorem raiseError_fracLo (e : ErrorKind) : (raiseError e s).fracLo = s.fracLo := rfl
@[simp] theorem raiseError_fracHi (e : ErrorKind) : (raiseError e s).fracHi = s.fracHi := rfl
@[simp] theorem raiseError_fracField (e : ErrorKind) : (raiseError e s).fracField = s.fracField := rfl
@[simp] theorem raiseError_carry (e : ErrorKind) : (raiseError e s).carry = s.carry := rfl
@[simp] theorem raiseError_intField (e : ErrorKind) : (raiseError e s).intField = s.intField := rfl
@[simp] theorem raiseError_mag (e : ErrorKind) : (raiseError e s).mag = s.mag := rfl
@[simp] theorem raiseError_text (e : ErrorKind) : (raiseError e s).text = s.text := rfl
@[simp] theorem raiseError_textDraw (e : ErrorKind) : (raiseError e s).textDraw = s.textDraw := rfl
@[simp] theorem raiseError_inputs (e : ErrorKind) : (raiseError e s).inputs = s.inputs := rfl
@[simp] theorem raiseError_busyLeft (e : ErrorKind) : (raiseError e s).busyLeft = s.busyLeft := rfl
@[simp] theorem raiseError_tick (e : ErrorKind) : (raiseError e s).tick = s.tick := rfl

@[simp] theorem writeText_cmd (i : Nat) (b : Byte) : (writeText i b s).cmd = s.cmd := rfl
@[simp] theorem writeText_len (i : Nat) (b : Byte) : (writeText i b s).len = s.len := rfl
@[simp] theorem writeText_phase (i : Nat) (b : Byte) : (writeText i b s).phase = s.phase := rfl
@[simp] theorem writeText_status (i : Nat) (b : Byte) : (writeText i b s).status = s.status := rfl
@[simp] theorem writeText_result (i : Nat) (b : Byte) : (writeText i b s).result = s.result := rfl
@[simp] theorem writeText_neg (i : Nat) (b : Byte) : (writeText i b s).neg = s.neg := rfl
@[simp] theorem writeText_intLo (i : Nat) (b : Byte) : (writeText i b s).intLo = s.intLo := rfl
@[simp] theorem writeText_intHi (i : Nat) (b : Byte) : (writeText i b s).intHi = s.intHi := rfl
@[simp] theorem writeText_fracLo (i : Nat) (b : Byte) : (writeText i b s).fracLo = s.fracLo := rfl
@[simp] theorem writeText_fracHi (i : Nat) (b : Byte) : (writeText i b s).fracHi = s.fracHi := rfl
@[simp] theorem writeText_fracField (i : Nat) (b : Byte) : (writeText i b s).fracField = s.fracField := rfl
@[simp] theorem writeText_carry (i : Nat) (b : Byte) : (writeText i b s).carry = s.carry := rfl
@[simp] theorem writeText_intField (i : Nat) (b : Byte) : (writeText i b s).intField = s.intField := rfl
@[simp] theorem writeText_mag (i : Nat) (b : Byte) : (writeText i b s).mag = s.mag := rfl
@[simp] theorem writeText_text (i : Nat) (b : Byte) : (writeText i b s).text = Memory.store s.text i b := rfl
@[simp] theorem writeText_textDraw (i : Nat) (b : Byte) : (writeText i b s).textDraw = s.textDraw := rfl
@[simp] theorem writeText_inputs (i : Nat) (b : Byte) : (writeText i b s).inputs = s.inputs := rfl
@[simp] theorem writeText_busyLeft (i : Nat) (b : Byte) : (writeText i b s).busyLeft = s.busyLeft := rfl
@[simp] theorem writeText_tick (i : Nat) (b : Byte) : (writeText i b s).tick = s.tick := rfl

@[simp] theorem nextEdge_cmd : (nextEdge s).cmd = s.cmd := rfl
@[simp] theorem nextEdge_len : (nextEdge s).len = s.len := rfl
@[simp] theorem nextEdge_phase : (nextEdge s).phase = s.phase := rfl
@[simp] theorem nextEdge_status : (nextEdge s).status = s.status := rfl
@[simp] theorem nextEdge_result : (nextEdge s).result = s.result := rfl
@[simp] theorem nextEdge_neg : (nextEdge s).neg = s.neg := rfl
@[simp] theorem nextEdge_intLo : (nextEdge s).intLo = s.intLo := rfl
@[simp] theorem nextEdge_intHi : (nextEdge s).intHi = s.intHi := rfl
@[simp] theorem nextEdge_fracLo : (nextEdge s).fracLo = s.fracLo := rfl
@[simp] theorem nextEdge_fracHi : (nextEdge s).fracHi = s.fracHi := rfl
@[simp] theorem nextEdge_fracField : (nextEdge s).fracField = s.fracField := rfl
@[simp] theorem nextEdge_carry : (nextEdge s).carry = s.carry := rfl
@[simp] theorem nextEdge_intField : (nextEdge s).intField = s.intField := rfl
@[simp] theorem nextEdge_mag : (nextEdge s).mag = s.mag := rfl
@[simp] theorem nextEdge_text : (nextEdge s).text = s.text := rfl
@[simp] theorem nextEdge_textDraw : (nextEdge s).textDraw = s.textDraw := rfl
@[simp] theorem nextEdge_inputs : (nextEdge s).inputs = s.inputs.tail := rfl
@[simp] theorem nextEdge_busyLeft : (nextEdge s).busyLeft = s.busyLeft := rfl
@[simp] theorem nextEdge_tick : (nextEdge s).tick = s.tick + 1 := rfl

@[simp] theorem setBusyLeft_cmd (n : Nat) : (setBusyLeft n s).cmd = s.cmd := rfl
@[simp] theorem setBusyLeft_len (n : Nat) : (setBusyLeft n s).len = s.len := rfl
@[simp] theorem setBusyLeft_phase (n : Nat) : (setBusyLeft n s).phase = s.phase := rfl
@[simp] theorem setBusyLeft_status (n : Nat) : (setBusyLeft n s).status = s.status := rfl
@[simp] theorem setBusyLeft_result (n : Nat) : (setBusyLeft n s).result = s.result := rfl
@[simp] theorem setBusyLeft_neg (n : Nat) : (setBusyLeft n s).neg = s.neg := rfl
@[simp] theorem setBusyLeft_intLo (n : Nat) : (setBusyLeft n s).intLo = s.intLo := rfl
@[simp] theorem setBusyLeft_intHi (n : Nat) : (setBusyLeft n s).intHi = s.intHi := rfl
@[simp] theorem setBusyLeft_fracLo (n : Nat) : (setBusyLeft n s).fracLo = s.fracLo := rfl
@[simp] theorem setBusyLeft_fracHi (n : Nat) : (setBusyLeft n s).fracHi = s.fracHi := rfl
@[simp] theorem setBusyLeft_fracField (n : Nat) : (setBusyLeft n s).fracField = s.fracField := rfl
@[simp] theorem setBusyLeft_carry (n : Nat) : (setBusyLeft n s).carry = s.carry := rfl
@[simp] theorem setBusyLeft_intField (n : Nat) : (setBusyLeft n s).intField = s.intField := rfl
@[simp] theorem setBusyLeft_mag (n : Nat) : (setBusyLeft n s).mag = s.mag := rfl
@[simp] theorem setBusyLeft_text (n : Nat) : (setBusyLeft n s).text = s.text := rfl
@[simp] theorem setBusyLeft_textDraw (n : Nat) : (setBusyLeft n s).textDraw = s.textDraw := rfl
@[simp] theorem setBusyLeft_inputs (n : Nat) : (setBusyLeft n s).inputs = s.inputs := rfl
@[simp] theorem setBusyLeft_busyLeft (n : Nat) : (setBusyLeft n s).busyLeft = n := rfl
@[simp] theorem setBusyLeft_tick (n : Nat) : (setBusyLeft n s).tick = s.tick := rfl

@[simp] theorem latchRequest_cmd (p : PortIn) : (latchRequest p s).cmd = p.cmdIn := rfl
@[simp] theorem latchRequest_len (p : PortIn) : (latchRequest p s).len = p.lenIn := rfl
@[simp] theorem latchRequest_phase (p : PortIn) : (latchRequest p s).phase = s.phase := rfl
@[simp] theorem latchRequest_status (p : PortIn) : (latchRequest p s).status = .ok := rfl
@[simp] theorem latchRequest_result (p : PortIn) : (latchRequest p s).result = 0 := rfl
@[simp] theorem latchRequest_neg (p : PortIn) : (latchRequest p s).neg = s.neg := rfl
@[simp] theorem latchRequest_intLo (p : PortIn) : (latchRequest p s).intLo = s.intLo := rfl
@[simp] theorem latchRequest_intHi (p : PortIn) : (latchRequest p s).intHi = s.intHi := rfl
@[simp] theorem latchRequest_fracLo (p : PortIn) : (latchRequest p s).fracLo = s.fracLo := rfl
@[simp] theorem latchRequest_fracHi (p : PortIn) : (latchRequest p s).fracHi = s.fracHi := rfl
@[simp] theorem latchRequest_fracField (p : PortIn) : (latchRequest p s).fracField = s.fracField := rfl
@[simp] theorem latchRequest_carry (p : PortIn) : (latchRequest p s).carry = s.carry := rfl
@[simp] theorem latchRequest_intField (p : PortIn) : (latchRequest p s).intField = s.intField := rfl
@[simp] theorem latchRequest_mag (p : PortIn) : (latchRequest p s).mag = s.mag := rfl
@[simp] theorem latchRequest_text (p : PortIn) : (latchRequest p s).text = s.text := rfl
@[simp] theorem latchRequest_textDraw (p : PortIn) : (latchRequest p s).textDraw = s.textDraw := rfl
@[simp] theorem latchRequest_inputs (p : PortIn) : (latchRequest p s).inputs = s.inputs := rfl
@[simp] theorem latchRequest_busyLeft (p : PortIn) : (latchRequest p s).busyLeft = s.busyLeft := rfl
@[simp] theorem latchRequest_tick (p : PortIn) : (latchRequest p s).tick = s.tick := rfl

@[simp] theorem beginTransaction_cmd (n : Nat) : (beginTransaction n s).cmd = s.cmd := rfl
@[simp] theorem beginTransaction_len (n : Nat) : (beginTransaction n s).len = s.len := rfl
@[simp] theorem beginTransaction_phase (n : Nat) : (beginTransaction n s).phase = .tokenize := rfl
@[simp] theorem beginTransaction_status (n : Nat) : (beginTransaction n s).status = s.status := rfl
@[simp] theorem beginTransaction_result (n : Nat) : (beginTransaction n s).result = s.result := rfl
@[simp] theorem beginTransaction_neg (n : Nat) : (beginTransaction n s).neg = s.neg := rfl
@[simp] theorem beginTransaction_intLo (n : Nat) : (beginTransaction n s).intLo = s.intLo := rfl
@[simp] theorem beginTransaction_intHi (n : Nat) : (beginTransaction n s).intHi = s.intHi := rfl
@[simp] theorem beginTransaction_fracLo (n : Nat) : (beginTransaction n s).fracLo = s.fracLo := rfl
@[simp] theorem beginTransaction_fracHi (n : Nat) : (beginTransaction n s).fracHi = s.fracHi := rfl
@[simp] theorem beginTransaction_fracField (n : Nat) : (beginTransaction n s).fracField = s.fracField := rfl
@[simp] theorem beginTransaction_carry (n : Nat) : (beginTransaction n s).carry = s.carry := rfl
@[simp] theorem beginTransaction_intField (n : Nat) : (beginTransaction n s).intField = s.intField := rfl
@[simp] theorem beginTransaction_mag (n : Nat) : (beginTransaction n s).mag = s.mag := rfl
@[simp] theorem beginTransaction_text (n : Nat) : (beginTransaction n s).text = s.text := rfl
@[simp] theorem beginTransaction_textDraw (n : Nat) : (beginTransaction n s).textDraw = s.textDraw := rfl
@[simp] theorem beginTransaction_inputs (n : Nat) : (beginTransaction n s).inputs = s.inputs := rfl
@[simp] theorem beginTransaction_busyLeft (n : Nat) : (beginTransaction n s).busyLeft = n := rfl
@[simp] theorem beginTransaction_tick (n : Nat) : (beginTransaction n s).tick = s.tick := rfl

@[simp] theorem setLiteral_cmd (r : LiteralRecord) : (setLiteral r s).cmd = s.cmd := rfl
@[simp] theorem setLiteral_len (r : LiteralRecord) : (setLiteral r s).len = s.len := rfl
@[simp] theorem setLiteral_phase (r : LiteralRecord) : (setLiteral r s).phase = .fraction := rfl
@[simp] theorem setLiteral_status (r : LiteralRecord) : (setLiteral r s).status = s.status := rfl
@[simp] theorem setLiteral_result (r : LiteralRecord) : (setLiteral r s).result = s.result := rfl
@[simp] theorem setLiteral_neg (r : LiteralRecord) : (setLiteral r s).neg = r.neg := rfl
@[simp] theorem setLiteral_intLo (r : LiteralRecord) : (setLiteral r s).intLo = BitVec.ofNat 16 r.intLo := rfl
@[simp] theorem setLiteral_intHi (r : LiteralRecord) : (setLiteral r s).intHi = BitVec.ofNat 16 r.intHi := rfl
@[simp] theorem setLiteral_fracLo (r : LiteralRecord) : (setLiteral r s).fracLo = BitVec.ofNat 16 r.fracLo := rfl
@[simp] theorem setLiteral_fracHi (r : LiteralRecord) : (setLiteral r s).fracHi = BitVec.ofNat 16 r.fracHi := rfl
@[simp] theorem setLiteral_fracField (r : LiteralRecord) : (setLiteral r s).fracField = s.fracField := rfl
@[simp] theorem setLiteral_carry (r : LiteralRecord) : (setLiteral r s).carry = s.carry := rfl
@[simp] theorem setLiteral_intField (r : LiteralRecord) : (setLiteral r s).intField = s.intField := rfl
@[simp] theorem setLiteral_mag (r : LiteralRecord) : (setLiteral r s).mag = s.mag := rfl
@[simp] theorem setLiteral_text (r : LiteralRecord) : (setLiteral r s).text = s.text := rfl
@[simp] theorem setLiteral_textDraw (r : LiteralRecord) : (setLiteral r s).textDraw = s.textDraw := rfl
@[simp] theorem setLiteral_inputs (r : LiteralRecord) : (setLiteral r s).inputs = s.inputs := rfl
@[simp] theorem setLiteral_busyLeft (r : LiteralRecord) : (setLiteral r s).busyLeft = s.busyLeft := rfl
@[simp] theorem setLiteral_tick (r : LiteralRecord) : (setLiteral r s).tick = s.tick := rfl

@[simp] theorem setFraction_cmd (r : Fraction) : (setFraction r s).cmd = s.cmd := rfl
@[simp] theorem setFraction_len (r : Fraction) : (setFraction r s).len = s.len := rfl
@[simp] theorem setFraction_phase (r : Fraction) : (setFraction r s).phase = .integer := rfl
@[simp] theorem setFraction_status (r : Fraction) : (setFraction r s).status = s.status := rfl
@[simp] theorem setFraction_result (r : Fraction) : (setFraction r s).result = s.result := rfl
@[simp] theorem setFraction_neg (r : Fraction) : (setFraction r s).neg = s.neg := rfl
@[simp] theorem setFraction_intLo (r : Fraction) : (setFraction r s).intLo = s.intLo := rfl
@[simp] theorem setFraction_intHi (r : Fraction) : (setFraction r s).intHi = s.intHi := rfl
@[simp] theorem setFraction_fracLo (r : Fraction) : (setFraction r s).fracLo = s.fracLo := rfl
@[simp] theorem setFraction_fracHi (r : Fraction) : (setFraction r s).fracHi = s.fracHi := rfl
@[simp] theorem setFraction_fracField (r : Fraction) : (setFraction r s).fracField = r.field := rfl
@[simp] theorem setFraction_carry (r : Fraction) : (setFraction r s).carry = r.carry := rfl
@[simp] theorem setFraction_intField (r : Fraction) : (setFraction r s).intField = s.intField := rfl
@[simp] theorem setFraction_mag (r : Fraction) : (setFraction r s).mag = s.mag := rfl
@[simp] theorem setFraction_text (r : Fraction) : (setFraction r s).text = s.text := rfl
@[simp] theorem setFraction_textDraw (r : Fraction) : (setFraction r s).textDraw = s.textDraw := rfl
@[simp] theorem setFraction_inputs (r : Fraction) : (setFraction r s).inputs = s.inputs := rfl
@[simp] theorem setFraction_busyLeft (r : Fraction) : (setFraction r s).busyLeft = s.busyLeft := rfl
@[simp] theorem setFraction_tick (r : Fraction) : (setFraction r s).tick = s.tick := rfl

@[simp] theorem setIntField_cmd (v : U128) : (setIntField v s).cmd = s.cmd := rfl
@[simp] theorem setIntField_len (v : U128) : (setIntField v s).len = s.len := rfl
@[simp] theorem setIntField_phase (v : U128) : (setIntField v s).phase = .assemble := rfl
@[simp] theorem setIntField_status (v : U128) : (setIntField v s).status = s.status := rfl
@[simp] theorem setIntField_result (v : U128) : (setIntField v s).result = s.result := rfl
@[simp] theorem setIntField_neg (v : U128) : (setIntField v s).neg = s.neg := rfl
@[simp] theorem setIntField_intLo (v : U128) : (setIntField v s).intLo = s.intLo := rfl
@[simp] theorem setIntField_intHi (v : U128) : (setIntField v s).intHi = s.intHi := rfl
@[simp] theorem setIntField_fracLo (v : U128) : (setIntField v s).fracLo = s.fracLo := rfl
@[simp] theorem setIntField_fracHi (v : U128) : (setIntField v s).fracHi = s.fracHi := rfl
@[simp] theorem setIntField_fracField (v : U128) : (setIntField v s).fracField = s.fracField := rfl
@[simp] theorem setIntField_carry (v : U128) : (setIntField v s).carry = s.carry := rfl
@[simp] theorem setIntField_intField (v : U128) : (setIntField v s).intField = v := rfl
@[simp] theorem setIntField_mag (v : U128) : (setIntField v s).mag = s.mag := rfl
@[simp] theorem setIntField_text (v : U128) : (setIntField v s).text = s.text := rfl
@[simp] theorem setIntField_textDraw (v : U128) : (setIntField v s).textDraw = s.textDraw := rfl
@[simp] theorem setIntField_inputs (v : U128) : (setIntField v s).inputs = s.inputs := rfl
@[simp] theorem setIntField_busyLeft (v : U128) : (setIntField v s).busyLeft = s.busyLeft := rfl
@[simp] theorem setIntField_tick (v : U128) : (setIntField v s).tick = s.tick := rfl

@[simp] theorem setMag_cmd (v : U128) : (setMag v s).cmd = s.cmd := rfl
@[simp] theorem setMag_len (v : U128) : (setMag v s).len = s.len := rfl
@[simp] theorem setMag_phase (v : U128) : (setMag v s).phase = s.phase := rfl
@[simp] theorem setMag_status (v : U128) : (setMag v s).status = s.status := rfl
@[simp] theorem setMag_result (v : U128) : (setMag v s).result = s.result := rfl
@[simp] theorem setMag_neg (v : U128) : (setMag v s).neg = s.neg := rfl
@[simp] theorem setMag_intLo (v : U128) : (setMag v s).intLo = s.intLo := rfl
@[simp] theorem setMag_intHi (v : U128) : (setMag v s).intHi = s.intHi := rfl
@[simp] theorem setMag_fracLo (v : U128) : (setMag v s).fracLo = s.fracLo := rfl
@[simp] theorem setMag_fracHi (v : U128) : (setMag v s).fracHi = s.fracHi := rfl
@[simp] theorem setMag_fracField (v : U128) : (setMag v s).fracField = s.fracField := rfl
@[simp] theorem setMag_carry (v : U128) : (setMag v s).carry = s.carry := rfl
@[simp] theorem setMag_intField (v : U128) : (setMag v s).intField = s.intField := rfl
@[simp] theorem setMag_mag (v : U128) : (setMag v s).mag = v := rfl
@[simp] theorem setMag_text (v : U128) : (setMag v s).text = s.text := rfl
@[simp] theorem setMag_textDraw (v : U128) : (setMag v s).textDraw = s.textDraw := rfl
@[simp] theorem setMag_inputs (v : U128) : (setMag v s).inputs = s.inputs := rfl
@[simp] theorem setMag_busyLeft (v : U128) : (setMag v s).busyLeft = s.busyLeft := rfl
@[simp] theorem setMag_tick (v : U128) : (setMag v s).tick = s.tick := rfl

@[simp] theorem deliver_cmd (v : U128) : (deliver v s).cmd = s.cmd := rfl
@[simp] theorem deliver_len (v : U128) : (deliver v s).len = s.len := rfl
@[simp] theorem deliver_phase (v : U128) : (deliver v s).phase = .done := rfl
@[simp] theorem deliver_status (v : U128) : (deliver v s).status = .ok := rfl
@[simp] theorem deliver_result (v : U128) : (deliver v s).result = v := rfl
@[simp] theorem deliver_neg (v : U128) : (deliver v s).neg = s.neg := rfl
@[simp] theorem deliver_intLo (v : U128) : (deliver v s).intLo = s.intLo := rfl
@[simp] theorem deliver_intHi (v : U128) : (deliver v s).intHi = s.intHi := rfl
@[simp] theorem deliver_fracLo (v : U128) : (deliver v s).fracLo = s.fracLo := rfl
@[simp] theorem deliver_fracHi (v : U128) : (deliver v s).fracHi = s.fracHi := rfl
@[simp] theorem deliver_fracField (v : U128) : (deliver v s).fracField = s.fracField := rfl
@[simp] theorem deliver_carry (v : U128) : (deliver v s).carry = s.carry := rfl
@[simp] theorem deliver_intField (v : U128) : (deliver v s).intField = s.intField := rfl
@[simp] theorem deliver_mag (v : U128) : (deliver v s).mag = s.mag := rfl
@[simp] theorem deliver_text (v : U128) : (deliver v s).text = s.text := rfl
@[simp] theorem deliver_textDraw (v : U128) : (deliver v s).textDraw = s.textDraw := rfl
@[simp] theorem deliver_inputs (v : U128) : (deliver v s).inputs = s.inputs := rfl
@[simp] theorem deliver_busyLeft (v : U128) : (deliver v s).busyLeft = s.busyLeft := rfl
@[simp] theorem deliver_tick (v : U128) : (deliver v s).tick = s.tick := rfl

@[simp] theorem resetRegisters_cmd : (resetRegisters s).cmd = 0 := rfl
@[simp] theorem resetRegisters_len : (resetRegisters s).len = 0 := rfl
@[simp] theorem resetRegisters_phase : (resetRegisters s).phase = .idle := rfl
@[simp] theorem resetRegisters_status : (resetRegisters s).status = .ok := rfl
@[simp] theorem resetRegisters_result : (resetRegisters s).result = 0 := rfl
@[simp] theorem resetRegisters_neg : (resetRegisters s).neg = false := rfl
@[simp] theorem resetRegisters_intLo : (resetRegisters s).intLo = 0 := rfl
@[simp] theorem resetRegisters_intHi : (resetRegisters s).intHi = 0 := rfl
@[simp] theorem resetRegisters_fracLo : (resetRegisters s).fracLo = 0 := rfl
@[simp] theorem resetRegisters_fracHi : (resetRegisters s).fracHi = 0 := rfl
@[simp] theorem resetRegisters_fracField : (resetRegisters s).fracField = 0 := rfl
@[simp] theorem resetRegisters_carry : (resetRegisters s).carry = false := rfl
@[simp] theorem resetRegisters_intField : (resetRegisters s).intField = 0 := rfl
@[simp] theorem resetRegisters_mag : (resetRegisters s).mag = 0 := rfl
@[simp] theorem resetRegisters_text : (resetRegisters s).text = s.text := rfl
@[simp] theorem resetRegisters_textDraw : (resetRegisters s).textDraw = s.textDraw := rfl
@[simp] theorem resetRegisters_inputs : (resetRegisters s).inputs = s.inputs := rfl
@[simp] theorem resetRegisters_busyLeft : (resetRegisters s).busyLeft = 0 := rfl
@[simp] theorem resetRegisters_tick : (resetRegisters s).tick = s.tick := rfl

@[simp] theorem placeCommand_cmd (c : U16) : (placeCommand s c).cmd = c := rfl
@[simp] theorem placeCommand_len (c : U16) : (placeCommand s c).len = s.len := rfl
@[simp] theorem placeCommand_phase (c : U16) : (placeCommand s c).phase = .tokenize := rfl
@[simp] theorem placeCommand_status (c : U16) : (placeCommand s c).status = s.status := rfl
@[simp] theorem placeCommand_result (c : U16) : (placeCommand s c).result = s.result := rfl
@[simp] theorem placeCommand_neg (c : U16) : (placeCommand s c).neg = s.neg := rfl
@[simp] theorem placeCommand_intLo (c : U16) : (placeCommand s c).intLo = s.intLo := rfl
@[simp] theorem placeCommand_intHi (c : U16) : (placeCommand s c).intHi = s.intHi := rfl
@[simp] theorem placeCommand_fracLo (c : U16) : (placeCommand s c).fracLo = s.fracLo := rfl
@[simp] theorem placeCommand_fracHi (c : U16) : (placeCommand s c).fracHi = s.fracHi := rfl
@[simp] theorem placeCommand_fracField (c : U16) : (placeCommand s c).fracField = s.fracField := rfl
@[simp] theorem placeCommand_carry (c : U16) : (placeCommand s c).carry = s.carry := rfl
@[simp] theorem placeCommand_intField (c : U16) : (placeCommand s c).intField = s.intField := rfl
@[simp] theorem placeCommand_mag (c : U16) : (placeCommand s c).mag = s.mag := rfl
@[simp] theorem placeCommand_text (c : U16) : (placeCommand s c).text = s.text := rfl
@[simp] theorem placeCommand_textDraw (c : U16) : (placeCommand s c).textDraw = s.textDraw := rfl
@[simp] theorem placeCommand_inputs (c : U16) : (placeCommand s c).inputs = .quiet :: s.inputs := rfl
@[simp] theorem placeCommand_busyLeft (c : U16) : (placeCommand s c).busyLeft = 1 := rfl
@[simp] theorem placeCommand_tick (c : U16) : (placeCommand s c).tick = s.tick := rfl

end Sys2Proof.Machine
end

