-- ==== Sys2Proof/Laws/Memory.lean ====
section
/-! SUPPORT. TEXT as memory: what a store leaves to be read, and that every operation keeps the canonical form. -/

namespace Sys2Proof.Machine

/-- A read after a store: the stored byte at its index, every other cell as before. -/
theorem Memory.lookup_store (m : Memory) (hm : Memory.wf m = true) (i j : Nat) (b : Byte) :
    Memory.lookup (Memory.store m i b) j = if j = i then some b else Memory.lookup m j := by
  induction m with
  | nil => simp [Memory.store, Memory.lookup]
  | cons cell rest ih =>
    have hrest : Memory.wf rest = true := by
      cases rest with
      | nil => rfl
      | cons c2 r2 => simp only [Memory.wf, Bool.and_eq_true] at hm; exact hm.2
    unfold Memory.store
    by_cases h1 : i < cell.1
    · by_cases hj : j = i <;> simp [h1, Memory.lookup, hj]
    · by_cases h2 : i = cell.1
      · by_cases hj : j = i <;> simp [h2, Memory.lookup] at * <;> simp [hj]
      · simp only [h1, h2, if_false, Memory.lookup, ih hrest]
        by_cases hj : j = cell.1
        · have : j ≠ i := by omega
          simp [hj, show cell.1 ≠ i by omega]
        · simp [hj]

/-- The index of a stored list's first cell. -/
theorem Memory.store_head (m : Memory) (i : Nat) (b : Byte) :
    ∃ cell rest, Memory.store m i b = cell :: rest ∧ (cell.1 = i ∨ ∃ c r, m = c :: r ∧ cell.1 = c.1) := by
  cases m with
  | nil => exact ⟨(i, b), [], rfl, .inl rfl⟩
  | cons c r =>
    unfold Memory.store
    split
    · exact ⟨_, _, rfl, .inl rfl⟩
    · split
      · exact ⟨_, _, rfl, .inl rfl⟩
      · exact ⟨_, _, rfl, .inr ⟨c, r, rfl, rfl⟩⟩

/-- A store keeps the canonical form. -/
theorem Memory.store_wf (m : Memory) (hm : Memory.wf m = true) (i : Nat) (b : Byte) :
    Memory.wf (Memory.store m i b) = true := by
  induction m with
  | nil => rfl
  | cons cell rest ih =>
    have hrest : Memory.wf rest = true := by
      cases rest with
      | nil => rfl
      | cons c2 r2 => simp only [Memory.wf, Bool.and_eq_true] at hm; exact hm.2
    unfold Memory.store
    split
    case isTrue h => simp [Memory.wf, h, hm]
    case isFalse h1 =>
      split
      case isTrue h2 =>
        cases rest with
        | nil => rfl
        | cons c2 r2 => simpa [Memory.wf, h2] using hm
      case isFalse h2 =>
        obtain ⟨c', r', hs, hc⟩ := Memory.store_head rest i b
        have hw := ih hrest
        rw [hs] at hw ⊢
        simp only [Memory.wf, Bool.and_eq_true, decide_eq_true_eq]
        refine ⟨?_, hw⟩
        rcases hc with hc | ⟨c, r, rfl, hc⟩
        · omega
        · simp only [Memory.wf, Bool.and_eq_true, decide_eq_true_eq] at hm; omega

/-- A store adds no index but its own. -/
theorem Memory.store_mem (m : Memory) (i : Nat) (b : Byte) (cell : Host.Cell)
    (h : cell ∈ Memory.store m i b) : cell = (i, b) ∨ cell ∈ m := by
  induction m with
  | nil => simpa [Memory.store] using h
  | cons c rest ih =>
    unfold Memory.store at h
    split at h
    · simpa using h
    · split at h
      · simp only [List.mem_cons] at h ⊢
        rcases h with h | h
        · exact .inl h
        · exact .inr (.inr h)
      · simp only [List.mem_cons] at h ⊢
        rcases h with h | h
        · exact .inr (.inl h)
        · rcases ih h with h | h
          · exact .inl h
          · exact .inr (.inr h)

/-- Nothing is written in the memory of the reset state, which is canonical. -/
theorem State.reset_text_wf : Memory.wf State.reset.text = true := rfl

/-- MemWrite then MemRead. -/
theorem readText_writeText (s : State) (h : Memory.wf s.text = true) (i j : Nat) (b : Byte) :
    readText (writeText i b s) j = if j = i then b else readText s j := by
  unfold readText
  simp only [writeText_text, writeText_textDraw, Memory.lookup_store _ h]
  split <;> simp

/-- A read depends on TEXT and its power-up contents only. -/
theorem readText_congr {s t : State} (h : t.text = s.text) (hd : t.textDraw = s.textDraw) (i : Nat) :
    readText t i = readText s i := by
  unfold readText; rw [h, hd]

/-- What the write port can do at an edge: write, under R51's conditions, or nothing. -/
theorem writePort_cases (p : PortIn) (s : State) :
    (p.twEn = true ∧ s.phase.isBusy = false ∧ p.twAddr.toNat < Config.textMaxLen ∧
      writePort p s = writeText p.twAddr.toNat p.twData s) ∨
    (¬ (p.twEn = true ∧ s.phase.isBusy = false ∧ p.twAddr.toNat < Config.textMaxLen) ∧ writePort p s = s) := by
  unfold writePort
  by_cases h : p.twEn = true ∧ s.phase.isBusy = false ∧ p.twAddr.toNat < Config.textMaxLen
  · exact .inl ⟨h.1, h.2.1, h.2.2, by simp only [h, and_self, if_true]⟩
  · exact .inr ⟨h, by simp only [h, if_false]⟩

/-- The write port keeps the canonical form. -/
theorem writePort_wf (p : PortIn) (s : State) (h : Memory.wf s.text = true) :
    Memory.wf (writePort p s).text = true := by
  rcases writePort_cases p s with ⟨-, -, -, he⟩ | ⟨-, he⟩ <;> rw [he]
  · exact Memory.store_wf _ h _ _
  · exact h

/-- A span that is one: its bounds are in order and within the literal, and its bytes are TEXT's. -/
theorem readSpan_eq_some {s : State} {lo hi : U16} {bytes : List Byte} :
    readSpan s lo hi = some bytes ↔
      lo.toNat ≤ hi.toNat ∧ hi.toNat ≤ s.len.toNat ∧
        bytes = (List.range' lo.toNat (hi.toNat - lo.toNat)).map (readText s) := by
  unfold readSpan
  by_cases h : lo.toNat ≤ hi.toNat ∧ hi.toNat ≤ s.len.toNat
  · simp only [h, and_self, if_true, Option.some.injEq, true_and]; exact eq_comm
  · simp only [h, if_false]; constructor
    · intro h'; cases h'
    · rintro ⟨h1, h2, -⟩; exact absurd ⟨h1, h2⟩ h

end Sys2Proof.Machine
end

