-- ==== Sys2Proof/Laws/PerInstr.lean ====
section
/-! SUPPORT. Facts about every operation as syntax, one lemma for each constructor. -/

namespace Sys2Proof.Laws

/-- The descriptor of an operation carries its `match` word under the opcode mask (30_encoding.md R82). -/
def OpcodeMask.Statement (i : Instr) : Prop := encode i &&& opcodeMask = i.matchWord

/-- Under the mask only SIGNED and BASE are left of an encoding; RSVD is 0. -/
theorem encode_masked (i : Instr) :
    encode i &&& opcodeMask = (i.signedBit.setWidth 16 <<< 5) ||| i.baseCode.setWidth 16 := by
  apply BitVec.eq_of_getLsbD_eq
  intro n hn
  unfold encode opcodeMask
  interval_cases n <;> simp

/-- SIGNED and BASE in their places are the `match` word. -/
theorem fields_are_match (i : Instr) :
    (i.signedBit.setWidth 16 <<< 5) ||| i.baseCode.setWidth 16 = i.matchWord := by
  cases i <;> simp [Instr.signedBit, Instr.baseCode, Instr.matchWord]

namespace OpcodeMask

theorem parseUB2 (w : Width) (f : BitVec 8) : Statement (.parseUB2 w f) :=
  (encode_masked _).trans (fields_are_match _)
theorem parseUB8 (w : Width) (f : BitVec 8) : Statement (.parseUB8 w f) :=
  (encode_masked _).trans (fields_are_match _)
theorem parseUB10 (w : Width) (f : BitVec 8) : Statement (.parseUB10 w f) :=
  (encode_masked _).trans (fields_are_match _)
theorem parseUB16 (w : Width) (f : BitVec 8) : Statement (.parseUB16 w f) :=
  (encode_masked _).trans (fields_are_match _)
theorem parseSB2 (w : Width) (f : BitVec 8) : Statement (.parseSB2 w f) :=
  (encode_masked _).trans (fields_are_match _)
theorem parseSB8 (w : Width) (f : BitVec 8) : Statement (.parseSB8 w f) :=
  (encode_masked _).trans (fields_are_match _)
theorem parseSB10 (w : Width) (f : BitVec 8) : Statement (.parseSB10 w f) :=
  (encode_masked _).trans (fields_are_match _)
theorem parseSB16 (w : Width) (f : BitVec 8) : Statement (.parseSB16 w f) :=
  (encode_masked _).trans (fields_are_match _)

end OpcodeMask

end Sys2Proof.Laws
end

