-- ==== Sys2Proof/Laws/Stages.lean ====
section
/-! SUPPORT. Everything a stage, a run of stages and a rising edge can do, said once. -/

namespace Sys2Proof.Machine

/-- andThen answers a next state only through one. -/
theorem andThen_eq_next {o : Host.Outcome State Fault Refusal} {f : State → Host.Outcome State Fault Refusal}
    {t : State} : andThen o f = .next t ↔ ∃ u, o = .next u ∧ f u = .next t := by
  cases o <;> simp [andThen]

@[simp] theorem andThen_next (s : State) (f : State → Host.Outcome State Fault Refusal) :
    andThen (.next s) f = f s := rfl

/-- Phase TOKENIZE: the Literal record, or the first error. -/
theorem tokenizeStage_cases (op : Operation) (s : State) :
    (∃ r, tokenize op.base op.signed (literalBytes s) = .ok r ∧ tokenizeStage op s = setLiteral r s) ∨
    (∃ e, tokenize op.base op.signed (literalBytes s) = .error e ∧ tokenizeStage op s = raiseError e s) := by
  unfold tokenizeStage
  cases tokenize op.base op.signed (literalBytes s) with
  | ok r => exact .inl ⟨r, rfl, rfl⟩
  | error e => exact .inr ⟨e, rfl, rfl⟩

/-- Phase FRACTION answers a next state only as one converter's result. -/
theorem fractionStage_cases {op : Operation} {s t : State} (h : fractionStage op s = .next t) :
    ∃ bytes r, readSpan s s.fracLo s.fracHi = some bytes ∧ t = setFraction r s ∧
      ((∃ d, op.base.fractionSelect = .exact d ∧ r = exactFraction d op.frac (bytes.map digitValue)) ∨
        (op.base.fractionSelect = .decimal ∧
          decimalFraction op.width op.frac (bytes.map digitValue) = some r)) := by
  unfold fractionStage at h
  cases hb : readSpan s s.fracLo s.fracHi with
  | none => simp [hb] at h
  | some bytes =>
    cases hs : op.base.fractionSelect with
    | exact d =>
      simp only [hb, hs] at h
      injection h with h
      exact ⟨bytes, _, rfl, h.symm, .inl ⟨d, rfl, rfl⟩⟩
    | decimal =>
      cases hd : decimalFraction op.width op.frac (bytes.map digitValue) with
      | none => simp [hb, hs, hd] at h
      | some r =>
        simp only [hb, hs, hd] at h
        injection h with h
        exact ⟨bytes, r, rfl, h.symm, .inr ⟨rfl, hd⟩⟩

/-- Phase INTEGER answers a next state only as the integer field or as Overflow. -/
theorem integerStage_cases {op : Operation} {s t : State} (h : integerStage op s = .next t) :
    ∃ bytes, readSpan s s.intLo s.intHi = some bytes ∧
      ((∃ v, integerConvert op s.carry bytes = some v ∧ t = setIntField (BitVec.ofNat 128 v) s) ∨
        (integerConvert op s.carry bytes = none ∧ t = raiseError .overflow s)) := by
  unfold integerStage at h
  cases hb : readSpan s s.intLo s.intHi with
  | none => simp [hb] at h
  | some bytes =>
    cases hv : integerConvert op s.carry bytes with
    | none =>
      simp only [hb, hv] at h
      injection h with h
      exact ⟨bytes, rfl, .inr ⟨hv, h.symm⟩⟩
    | some v =>
      simp only [hb, hv] at h
      injection h with h
      exact ⟨bytes, rfl, .inl ⟨v, hv, h.symm⟩⟩

/-- Phase ASSEMBLE: the pattern, or Overflow; MAG is the joined fields in both. -/
theorem assembleStage_cases (op : Operation) (s : State) :
    (∃ out, applySign op s.neg (s.intField ||| s.fracField) = some out ∧
      assembleStage op s = deliver out (setMag (s.intField ||| s.fracField) s)) ∨
    (applySign op s.neg (s.intField ||| s.fracField) = none ∧
      assembleStage op s = raiseError .overflow (setMag (s.intField ||| s.fracField) s)) := by
  unfold assembleStage
  simp only [setMag_neg, setMag_mag]
  cases applySign op s.neg (s.intField ||| s.fracField) with
  | some out => exact .inl ⟨out, rfl, rfl⟩
  | none => exact .inr ⟨rfl, rfl⟩

theorem SameRequest.refl (s : State) : SameRequest s s :=
  ⟨rfl, rfl, fun _ => rfl, rfl, rfl, rfl, rfl, rfl⟩

theorem SameRequest.trans {s t u : State} (h : SameRequest s t) (k : SameRequest t u) : SameRequest s u :=
  ⟨k.cmd.trans h.cmd, k.len.trans h.len, fun a => (k.text a).trans (h.text a), k.cells.trans h.cells,
    k.textDraw.trans h.textDraw, k.inputs.trans h.inputs, k.busyLeft.trans h.busyLeft, k.tick.trans h.tick⟩

/-- A stage that answers a next state touches only what the stages own. -/
theorem runStage_sameRequest {op : Operation} {s t : State} (h : runStage op s = .next t) : SameRequest s t := by
  unfold runStage at h
  split at h
  · injection h with h; subst h; exact .refl _
  · injection h with h; subst h
    rcases tokenizeStage_cases op s with ⟨r, -, he⟩ | ⟨e, -, he⟩ <;> rw [he] <;>
      exact ⟨rfl, rfl, fun _ => rfl, rfl, rfl, rfl, rfl, rfl⟩
  · obtain ⟨_, r, -, rfl, -⟩ := fractionStage_cases h
    exact ⟨rfl, rfl, fun _ => rfl, rfl, rfl, rfl, rfl, rfl⟩
  · obtain ⟨_, -, ⟨v, -, rfl⟩ | ⟨-, rfl⟩⟩ := integerStage_cases h <;>
      exact ⟨rfl, rfl, fun _ => rfl, rfl, rfl, rfl, rfl, rfl⟩
  · injection h with h; subst h
    rcases assembleStage_cases op s with ⟨out, -, he⟩ | ⟨-, he⟩ <;> rw [he] <;>
      exact ⟨rfl, rfl, fun _ => rfl, rfl, rfl, rfl, rfl, rfl⟩
  · injection h with h; subst h; exact .refl _

/-- The sequencer never moves backwards: where the stage of a phase can lead (10_state.md R25). -/
theorem runStage_phase {op : Operation} {s t : State} (h : runStage op s = .next t) :
    (s.phase = .idle ∧ t = s) ∨ (s.phase = .tokenize ∧ (t.phase = .fraction ∨ t.phase = .done)) ∨
    (s.phase = .fraction ∧ t.phase = .integer) ∨
    (s.phase = .integer ∧ (t.phase = .assemble ∨ t.phase = .done)) ∨
    (s.phase = .assemble ∧ t.phase = .done) ∨ (s.phase = .done ∧ t = s) := by
  unfold runStage at h
  split at h
  · rename_i hp; injection h with h; exact .inl ⟨hp, h.symm⟩
  · rename_i hp; injection h with h; subst h
    refine .inr (.inl ⟨hp, ?_⟩)
    rcases tokenizeStage_cases op s with ⟨r, -, he⟩ | ⟨e, -, he⟩ <;> rw [he] <;> simp
  · rename_i hp
    obtain ⟨_, r, -, rfl, -⟩ := fractionStage_cases h
    exact .inr (.inr (.inl ⟨hp, rfl⟩))
  · rename_i hp
    obtain ⟨_, -, ⟨v, -, rfl⟩ | ⟨-, rfl⟩⟩ := integerStage_cases h
    · exact .inr (.inr (.inr (.inl ⟨hp, .inl rfl⟩)))
    · exact .inr (.inr (.inr (.inl ⟨hp, .inr rfl⟩)))
  · rename_i hp; injection h with h; subst h
    refine .inr (.inr (.inr (.inr (.inl ⟨hp, ?_⟩))))
    rcases assembleStage_cases op s with ⟨out, -, he⟩ | ⟨-, he⟩ <;> rw [he] <;> simp
  · rename_i hp; injection h with h; exact .inr (.inr (.inr (.inr (.inr ⟨hp, h.symm⟩))))

/-- An accepted start: the transaction begins, or ConfigInvalid at this edge. -/
theorem acceptStart_cases (p : PortIn) (s : State) :
    (cmdLegal p.cmdIn p.lenIn = true ∧
      acceptStart p s =
        beginTransaction (Config.latency p.cmdIn p.lenIn (textPrefix s p.lenIn.toNat)) (latchRequest p s)) ∨
    (cmdLegal p.cmdIn p.lenIn = false ∧ acceptStart p s = raiseError .configInvalid (latchRequest p s)) := by
  unfold acceptStart
  cases cmdLegal p.cmdIn p.lenIn with
  | true => exact .inl ⟨rfl, rfl⟩
  | false => exact .inr ⟨rfl, rfl⟩

/-- What one rising edge can be: a reset, an edge of a running transaction, an accepted start, or a rest (45_operations.md
R221). -/
theorem clockEdge_cases (s : State) :
    ((currentInput s).rst = true ∧ clockEdge s = .next (resetRegisters (nextEdge s))) ∨
    ((currentInput s).rst = false ∧ s.phase.isBusy = true ∧ clockEdge s = busyEdge (nextEdge s)) ∨
    ((currentInput s).rst = false ∧ s.phase.isBusy = false ∧ (currentInput s).start = true ∧
      clockEdge s = .next (acceptStart (currentInput s) (writePort (currentInput s) (nextEdge s)))) ∨
    ((currentInput s).rst = false ∧ s.phase.isBusy = false ∧ (currentInput s).start = false ∧
      clockEdge s = .next (writePort (currentInput s) (nextEdge s))) := by
  unfold clockEdge restEdge
  simp only [nextEdge_phase]
  rcases Bool.eq_false_or_eq_true (currentInput s).rst with hr | hr <;>
    rcases Bool.eq_false_or_eq_true s.phase.isBusy with hb | hb <;>
    rcases Bool.eq_false_or_eq_true (currentInput s).start with hs | hs <;> simp [hr, hb, hs]

/-- LATENCY is at least 1 (00_scope.md R10). -/
theorem latency_pos (cmd len : U16) (text : List Byte) : 1 ≤ Config.latency cmd len text := by
  unfold Config.latency; omega

/-- TEXT_MAX_LEN is at least 1 and at most 65535 (R10). -/
theorem textMaxLen_bounds : 1 ≤ Config.textMaxLen ∧ Config.textMaxLen ≤ 65535 := by
  unfold Config.textMaxLen
  have := Config.textMaxLenLessOne.isLt
  omega

/-- A legal request is run, whole. -/
theorem runOperation_legal {op : Operation} {s : State} (hb : s.phase.isBusy = true)
    (hf : op.frac ≤ op.width.bits) (hl : s.len.toNat ≤ Config.textMaxLen) :
    runOperation op s = runToDone op s := by
  simp [runOperation, operationLegal, hb, hf, hl]

/-- Every operation on a legal request is its stages, whole. -/
theorem exec_legal {i : Instr} {s : State} (hb : s.phase.isBusy = true) (hf : i.frac.toNat ≤ i.width.bits)
    (hl : s.len.toNat ≤ Config.textMaxLen) : exec i s = runToDone (operationOf i) s := by
  cases i <;> exact runOperation_legal hb hf hl

end Sys2Proof.Machine
end

