-- ==== Sys2Proof/Tests/Slice0.lean ====
section
/-! SUPPORT. Tests. Descriptor words are written out from 30_encoding.md R70 to R75 and R82; expected outcomes are the rows of
95_test_vectors.md that each test names. Then, for every statement with hypotheses, a state and operands that meet them. -/

namespace Sys2Proof.Tests

open Sys2Proof.Machine

/-! ## The decoder on words written bit by bit: RSVD FRAC SIGNED WIDTH BASE -/

theorem test_decode_UB2 : decode 0b00_00000100_0_000_00 = .instr (.parseUB2 .w8 4) := by decide
theorem test_decode_UB8 : decode 0b00_00000100_0_000_01 = .instr (.parseUB8 .w8 4) := by decide
theorem test_decode_UB10 : decode 0b00_01000000_0_100_10 = .instr (.parseUB10 .w128 64) := by decide
theorem test_decode_UB16 : decode 0b00_00001000_0_001_11 = .instr (.parseUB16 .w16 8) := by decide
theorem test_decode_SB2 : decode 0b00_01111111_1_100_00 = .instr (.parseSB2 .w128 127) := by decide
theorem test_decode_SB8 : decode 0b00_00010000_1_010_01 = .instr (.parseSB8 .w32 16) := by decide
theorem test_decode_SB10 : decode 0b00_10000000_1_100_10 = .instr (.parseSB10 .w128 128) := by decide
theorem test_decode_SB16 : decode 0b00_01000000_1_011_11 = .instr (.parseSB16 .w64 64) := by decide

theorem test_decode_rsvd : decode 0x4002 = .illegal .reservedBits ∧ decode 0x8002 = .illegal .reservedBits := by decide
theorem test_decode_width5 : decode 0x0016 = .illegal .reservedWidth := by decide
theorem test_decode_width7 : decode 0x001E = .illegal .reservedWidth := by decide
theorem test_decode_frac9 : decode 0x0240 = .illegal .fracExceedsWidth := by decide
theorem test_decode_frac129 : decode 0x2050 = .illegal .fracExceedsWidth := by decide
theorem test_encode_SB10 : encode (.parseSB10 .w8 8) = 0x0222 := by decide
theorem test_table_word : decodeTableWord 16 0x0227 = some (.parseSB16 .w16 8) := by decide
theorem test_table_word_illegal : decodeTableWord 16 0xC002 = none := by decide

/-! ## WellFormed: its one check, on both sides of the boundary -/

theorem test_wellFormed_frac_at_width : (Instr.parseUB2 .w8 8).wellFormed = true := by decide
theorem test_wellFormed_refuses_frac_above_width : (Instr.parseUB2 .w8 9).wellFormed = false := by decide

/-! ## The operations -/

/-- A text held from TEXT[0] on. -/
def cells (text : List Nat) : Memory := text.zipIdx.map fun c => (c.2, BitVec.ofNat 8 c.1)

/-- A request at the beginning of phase TOKENIZE. -/
def holding (cmd : U16) (text : List Nat) : State :=
  { State.reset with cmd := cmd, len := BitVec.ofNat 16 text.length, phase := .tokenize, text := cells text }

/-- STATUS and RESULT of a next state in DONE. -/
def shown (o : Host.Outcome State Fault Refusal) : Option (Nat × Nat) :=
  match o with
  | .next t => if t.phase = .done then some (t.status.code.toNat, t.result.toNat) else none
  | _ => none

/-- The length of a test's text fits TEXT on every implementation whose buffer is that large. -/
abbrev Fits (text : List Nat) : Prop := (BitVec.ofNat 16 text.length).toNat ≤ Config.textMaxLen

/-- `101.11` (2.8, R212). -/
theorem test_UB2_worked (h : Fits [0x31, 0x30, 0x31, 0x2E, 0x31, 0x31]) :
    shown (exec (.parseUB2 .w8 4) (holding 0x0100 [0x31, 0x30, 0x31, 0x2E, 0x31, 0x31])) = some (0, 0x5C) := by
  rw [exec_legal rfl (by decide) h]; decide +kernel

/-- `0.11` on U7F1: the carry goes into the integer (2.3). -/
theorem test_UB2_carry (h : Fits [0x30, 0x2E, 0x31, 0x31]) :
    shown (exec (.parseUB2 .w8 1) (holding 0x0040 [0x30, 0x2E, 0x31, 0x31])) = some (0, 0x02) := by
  rw [exec_legal rfl (by decide) h]; decide +kernel

/-- `7.4` (2.8, R213). -/
theorem test_UB8_worked (h : Fits [0x37, 0x2E, 0x34]) :
    shown (exec (.parseUB8 .w8 4) (holding 0x0101 [0x37, 0x2E, 0x34])) = some (0, 0x78) := by
  rw [exec_legal rfl (by decide) h]; decide +kernel

/-- `400` on U8F0 overflows (2.3). -/
theorem test_UB8_overflow (h : Fits [0x34, 0x30, 0x30]) :
    shown (exec (.parseUB8 .w8 0) (holding 0x0001 [0x34, 0x30, 0x30])) = some (4, 0) := by
  rw [exec_legal rfl (by decide) h]; decide +kernel

/-- `0.9981` on U8F8: k = 3, so the last digit is ignored (2.4, C8). -/
theorem test_UB10_digit_limit (h : Fits [0x30, 0x2E, 0x39, 0x39, 0x38, 0x31]) :
    shown (exec (.parseUB10 .w16 8) (holding 0x0206 [0x30, 0x2E, 0x39, 0x39, 0x38, 0x31])) = some (0, 0xFF) := by
  rw [exec_legal rfl (by decide) h]; decide +kernel

/-- `.5` on U0F128: the double-width datapath (2.4). -/
theorem test_UB10_wide (h : Fits [0x2E, 0x35]) :
    shown (exec (.parseUB10 .w128 128) (holding 0x2012 [0x2E, 0x35])) = some (0, 2 ^ 127) := by
  rw [exec_legal rfl (by decide) h]; decide +kernel

/-- `ff.8` (2.3, lower case). -/
theorem test_UB16_lower_case (h : Fits [0x66, 0x66, 0x2E, 0x38]) :
    shown (exec (.parseUB16 .w16 8) (holding 0x0207 [0x66, 0x66, 0x2E, 0x38])) = some (0, 0xFF80) := by
  rw [exec_legal rfl (by decide) h]; decide +kernel

/-- `0.0F` on U5F3: digits after the boundary digit are not read (2.3). -/
theorem test_UB16_unread (h : Fits [0x30, 0x2E, 0x30, 0x46]) :
    shown (exec (.parseUB16 .w8 3) (holding 0x00C3 [0x30, 0x2E, 0x30, 0x46])) = some (0, 0) := by
  rw [exec_legal rfl (by decide) h]; decide +kernel

/-- `-1.1` (2.8, R216). -/
theorem test_SB2_worked (h : Fits [0x2D, 0x31, 0x2E, 0x31]) :
    shown (exec (.parseSB2 .w8 4) (holding 0x0120 [0x2D, 0x31, 0x2E, 0x31])) = some (0, 0xE8) := by
  rw [exec_legal rfl (by decide) h]; decide +kernel

/-- `0111.11111` on I4F4: a carry, then the signed bound (2.7). -/
theorem test_SB2_bound (h : Fits [0x30, 0x31, 0x31, 0x31, 0x2E, 0x31, 0x31, 0x31, 0x31, 0x31]) :
    shown (exec (.parseSB2 .w8 4) (holding 0x0120 [0x30, 0x31, 0x31, 0x31, 0x2E, 0x31, 0x31, 0x31, 0x31, 0x31]))
      = some (4, 0) := by
  rw [exec_legal rfl (by decide) h]; decide +kernel

/-- `-10` on I4F4, the most negative value (2.7). -/
theorem test_SB8_minimum (h : Fits [0x2D, 0x31, 0x30]) :
    shown (exec (.parseSB8 .w8 4) (holding 0x0121 [0x2D, 0x31, 0x30])) = some (0, 0x80) := by
  rw [exec_legal rfl (by decide) h]; decide +kernel

/-- `1..x` in base 8 would be InvalidDigit only at the x; the second point comes first (40_tokenizer.md R107). -/
theorem test_SB8_points (h : Fits [0x31, 0x2E, 0x2E, 0x78]) :
    shown (exec (.parseSB8 .w16 8) (holding 0x0225 [0x31, 0x2E, 0x2E, 0x78])) = some (3, 0) := by
  rw [exec_legal rfl (by decide) h]; decide +kernel

/-- `-12.34` (2.8, R218). -/
theorem test_SB10_worked (h : Fits [0x2D, 0x31, 0x32, 0x2E, 0x33, 0x34]) :
    shown (exec (.parseSB10 .w16 8) (holding 0x0226 [0x2D, 0x31, 0x32, 0x2E, 0x33, 0x34])) = some (0, 0xF3A9) := by
  rw [exec_legal rfl (by decide) h]; decide +kernel

/-- `-0.502` on I0F8 (1.2). -/
theorem test_SB10_overflow (h : Fits [0x2D, 0x30, 0x2E, 0x35, 0x30, 0x32]) :
    shown (exec (.parseSB10 .w8 8) (holding 0x0222 [0x2D, 0x30, 0x2E, 0x35, 0x30, 0x32])) = some (4, 0) := by
  rw [exec_legal rfl (by decide) h]; decide +kernel

/-- `-7F.F` (2.8, R219). -/
theorem test_SB16_worked (h : Fits [0x2D, 0x37, 0x46, 0x2E, 0x46]) :
    shown (exec (.parseSB16 .w16 8) (holding 0x0227 [0x2D, 0x37, 0x46, 0x2E, 0x46])) = some (0, 0x8010) := by
  rw [exec_legal rfl (by decide) h]; decide +kernel

/-- `G` is no base-16 digit (2.2). -/
theorem test_SB16_invalid (h : Fits [0x47]) :
    shown (exec (.parseSB16 .w16 8) (holding 0x0227 [0x47])) = some (1, 0) := by
  rw [exec_legal rfl (by decide) h]; decide +kernel

/-- The first step after reset runs the placed descriptor: the empty literal gives NoDigits (2.2, LEN = 0). -/
theorem test_first_step_runs : shown (step (State.reset.withFetchWord 16 0x0226)) = some (2, 0) := by decide +kernel

/-! ## The double-width unit (95_test_vectors.md 2.5) -/

theorem test_wideMul_max :
    wideMul 0xFFFFFFFFFFFFFFFFFFFFFFFFFFFFFFFF 0xFFFFFFFFFFFFFFFFFFFFFFFFFFFFFFFF
      = { hi := 0xFFFFFFFFFFFFFFFFFFFFFFFFFFFFFFFE, lo := 1 } := by decide +kernel

theorem test_join :
    pairAddLow (wideMul 0x33B2E3C9FD0803CE7FFFFFF ten27) 0x33B2E3C9FD0803CE7FFFFFF
      = { hi := 0xA70C3C40A64E6, lo := 0xC51999090B65F67D923FFFFFFFFFFFFF } := by decide +kernel

/-! ## Hypotheses that something meets -/

/-- A one-byte literal fits every TEXT. -/
theorem one_fits : (1#16).toNat ≤ Config.textMaxLen := textMaxLen_bounds.1

/-- TEXT_MAX_LEN as a port value. -/
def maxLen : U16 := BitVec.ofNat 16 Config.textMaxLen

theorem maxLen_toNat : maxLen.toNat = Config.textMaxLen := by
  have := textMaxLen_bounds.2
  unfold maxLen
  rw [BitVec.toNat_ofNat]
  exact Nat.mod_eq_of_lt (by omega)

/-- The last index of TEXT as a port value. -/
def lastIndex : U16 := BitVec.ofNat 16 (Config.textMaxLen - 1)

theorem lastIndex_toNat : lastIndex.toNat = Config.textMaxLen - 1 := by
  have := textMaxLen_bounds.2
  unfold lastIndex
  rw [BitVec.toNat_ofNat]
  exact Nat.mod_eq_of_lt (by omega)

/-- A legal descriptor with a length that fits is legal. -/
theorem cmdLegal_of_fits {l : U16} (h : l.toNat ≤ Config.textMaxLen) : cmdLegal 0x0222 l = true := by
  unfold cmdLegal
  rw [decide_eq_true_iff]
  exact ⟨by decide, by decide, by decide, h⟩

/-- The literal `1` under PARSE.S.B10 with W = 8 and F = 8. -/
def busyOne : State := { holding 0x0222 [0x31] with busyLeft := 1 }

theorem witness_DecodeOfEncodeIsTheOperation : (Instr.parseSB16 .w128 128).wellFormed = true := by decide

theorem witness_EncodeOfDecodeIsTheDescriptor : decode 0x2033 = .instr (.parseSB16 .w128 128) := by decide

theorem witness_IllegalDescriptorsAreNamed_rsvd : (0x4000#16).toNat / 2 ^ 14 ≠ 0 := by decide

theorem witness_IllegalDescriptorsAreNamed_width :
    (0x0014#16).toNat / 2 ^ 14 = 0 ∧ 5 ≤ (0x0014#16).toNat / 4 % 8 := by decide

theorem witness_IllegalDescriptorsAreNamed_frac :
    (0x2050#16).toNat / 2 ^ 14 = 0 ∧ (0x2050#16).toNat / 4 % 8 ≤ 4
      ∧ 8 * 2 ^ ((0x2050#16).toNat / 4 % 8) < (0x2050#16).toNat / 64 % 256 := by decide

theorem witness_LayoutValuesAreTheFieldsOfCmd : decode 0x2032 = .instr (.parseSB10 .w128 128) := by decide

theorem witness_OpcodeMapSelectsTheOperation : decode 0x0003 = .instr (.parseUB16 .w8 0) := by decide

theorem witness_ResetEdgeRestoresEveryRegister :
    { busyOne with inputs := [PortIn.reset] }.inputs = PortIn.reset :: [] ∧ PortIn.reset.rst = true := ⟨rfl, rfl⟩

theorem witness_TextWritePortWritesOrIsIgnored_last :
    ∃ p : PortIn, Memory.wf { State.reset with inputs := [p] }.text = true ∧ p.twEn = true ∧ p.rst = false
      ∧ State.reset.phase.isBusy = false ∧ p.twAddr.toNat < Config.textMaxLen :=
  ⟨{ PortIn.quiet with twEn := true, twAddr := lastIndex }, rfl, rfl, rfl, rfl, by
    show lastIndex.toNat < _
    have := textMaxLen_bounds.1
    rw [lastIndex_toNat]; omega⟩

theorem witness_TextWritePortWritesOrIsIgnored_outside :
    ∃ p : PortIn, Memory.wf { State.reset with inputs := [p] }.text = true ∧ p.twEn = true
      ∧ Config.textMaxLen ≤ p.twAddr.toNat :=
  ⟨{ PortIn.quiet with twEn := true, twAddr := maxLen }, rfl, rfl, by
    show _ ≤ maxLen.toNat
    exact Nat.le_of_eq maxLen_toNat.symm⟩

theorem witness_TextWritePortWritesOrIsIgnored_busy_or_reset :
    Memory.wf busyOne.text = true ∧ busyOne.phase.isBusy = true
      ∧ ({ PortIn.reset with twEn := true } : PortIn).rst = true := ⟨by decide, rfl, rfl⟩

theorem witness_LegalStartBeginsATransaction :
    (PortIn.begin 0x0222 maxLen).start = true ∧ (PortIn.begin 0x0222 maxLen).rst = false
      ∧ State.reset.phase.isBusy = false ∧ cmdLegal 0x0222 maxLen = true :=
  ⟨rfl, rfl, rfl, cmdLegal_of_fits (Nat.le_of_eq maxLen_toNat)⟩

theorem witness_IllegalStartIsConfigInvalid_rsvd : cmdRsvd (PortIn.begin 0x4000 0).cmdIn ≠ 0 := by decide

theorem witness_IllegalStartIsConfigInvalid_width : 5 ≤ (cmdWidth (PortIn.begin 0x0014 0).cmdIn).toNat := by decide

theorem witness_IllegalStartIsConfigInvalid_frac :
    8 <<< (cmdWidth (PortIn.begin 0x0240 0).cmdIn).toNat < (cmdFrac (PortIn.begin 0x0240 0).cmdIn).toNat := by decide

/-- The first length outside TEXT, on every implementation whose TEXT leaves one. -/
theorem witness_IllegalStartIsConfigInvalid_len (h : Config.textMaxLen < 65535) :
    Config.textMaxLen < (PortIn.begin 0x0222 (BitVec.ofNat 16 (Config.textMaxLen + 1))).lenIn.toNat := by
  show _ < (BitVec.ofNat 16 (Config.textMaxLen + 1)).toNat
  rw [BitVec.toNat_ofNat, Nat.mod_eq_of_lt (by omega)]; omega

theorem witness_StartWhileBusyIsIgnored :
    { busyOne with inputs := [PortIn.begin 0x0206 4] }.inputs = PortIn.begin 0x0206 4 :: []
      ∧ busyOne.phase.isBusy = true := ⟨rfl, rfl⟩

theorem witness_TextWriteWhileBusyIsDropped :
    { busyOne with inputs := [PortIn.write 0 0x2D] }.inputs = PortIn.write 0 0x2D :: []
      ∧ busyOne.phase.isBusy = true := ⟨rfl, rfl⟩

theorem witness_RestingBlockHoldsItsState :
    { State.reset with inputs := [PortIn.quiet] }.inputs = PortIn.quiet :: [] ∧ State.reset.phase.isBusy = false
      ∧ PortIn.quiet.rst = false ∧ PortIn.quiet.start = false ∧ PortIn.quiet.twEn = false := ⟨rfl, rfl, rfl, rfl, rfl⟩

theorem witness_StepRunsTheDecodedOperation_last :
    busyOne.phase.isBusy = true ∧ (currentInput busyOne).rst = false
      ∧ decode busyOne.cmd = .instr (.parseSB10 .w8 8) ∧ busyOne.busyLeft ≤ 1 := by decide

theorem witness_StepRunsTheDecodedOperation_earlier : 2 ≤ { busyOne with busyLeft := 2 }.busyLeft := by decide

theorem witness_StepRunsTheDecodedOperation_word : decodeTableWord 16 0x2033 = some (.parseSB16 .w128 128) := by decide

theorem witness_PhaseNeverMovesBackwards :
    ∃ t, (State.reset.withFetchWord 16 0x0226).phase.isBusy = true
      ∧ (currentInput (State.reset.withFetchWord 16 0x0226)).rst = false
      ∧ step (State.reset.withFetchWord 16 0x0226) = .next t := by
  cases h : step (State.reset.withFetchWord 16 0x0226) with
  | next t => exact ⟨t, rfl, rfl, rfl⟩
  | fault r => have := test_first_step_runs; rw [h] at this; cases this
  | refused r => have := test_first_step_runs; rw [h] at this; cases this

theorem witness_TokenizerFindsTheSpans :
    tokenize .b10 true [0x2D, 0x31, 0x32, 0x2E, 0x33, 0x34]
      = .ok { neg := true, intLo := 1, intHi := 3, fracLo := 4, fracHi := 6 } := by rfl

theorem witness_FirstErrorWins : scan .b10 true 0 [0x31, 0x78] scanStart = .error .invalidDigit := by rfl

theorem witness_ExactFractionRoundsHalfUp : (128 ≤ 128) ∧ ∀ v ∈ [15, 15, 0], v < 2 ^ 4 := by decide

theorem witness_DigitsAfterTheBoundaryAreUnread : 5 < 3 * [7, 7].length := by decide

/-- `1` in base 2 and in base 16. -/
theorem witness_PowerOfTwoBasesAgree :
    (1#16).toNat ≤ Config.textMaxLen
      ∧ splitLiteral .b2 false (literalBytes (holding 0x0100 [0x31])) = .ok { neg := false, int := [0x31], frac := [] }
      ∧ splitLiteral .b16 false (literalBytes (holding 0x0103 [0x31])) = .ok { neg := false, int := [0x31], frac := [] }
      ∧ spanValue .b2 [0x31] = spanValue .b16 [0x31]
      ∧ spanValue .b2 [] * Base.b16.radix ^ 0 = spanValue .b16 [] * Base.b2.radix ^ 0 :=
  ⟨one_fits, rfl, rfl, by decide +kernel, by decide +kernel⟩

theorem witness_DelegationEndsAtTheSmallestWidth : 128 ≤ Width.w128.bits ∧ 0 ≤ Width.w8.bits := by decide

theorem witness_DecimalFractionRoundsTheCapturedDigits : 128 ≤ Width.w128.bits ∧ ∀ v ∈ [9, 9, 0], v < 10 := by decide

theorem witness_WideDatapathComputesTheFormula : 128 ≤ 128 ∧ ∀ v ∈ [9, 0, 5], v < 10 := by decide

theorem witness_DigitsPastTheLimitAreIgnored : 8 ≤ Width.w8.bits ∧ [9, 9, 8].length = digitLimit 8 := by decide

theorem witness_ZeroDecimalFractionIsZero :
    8 ≤ Width.w8.bits ∧ ∀ v ∈ [0, 0, 0, 9].take (digitLimit 8), v = 0 := by decide

theorem witness_WideDivQuotientUnderPrecondition :
    (4#128).toNat < (5#128).toNat ∧ (5#128).toNat ≤ (5#128).toNat := by decide

theorem witness_WideDivUndoesWideMul : (1#128) ≠ 0 := by decide

theorem witness_PairPrimitivesAreArithmetic :
    pairNat { hi := 0, lo := 1 } * 2 ^ 255 < 2 ^ 256
      ∧ pairNat { hi := BitVec.allOnes 128, lo := 0 } + pairNat { hi := 0, lo := BitVec.allOnes 128 } < 2 ^ 256 := by
  decide +kernel

/-- `1` with one integer bit: it fits, and with a carry it does not. -/
theorem witness_IntegerConverterFlatForm :
    (∀ c ∈ [0x31#8], isDigit .b10 c = true)
      ∧ spanValue .b10 [0x31] + carryUnit false
          < 2 ^ ({ base := .b10, signed := false, width := .w8, frac := 7 } : Operation).intBits
      ∧ 2 ^ ({ base := .b10, signed := false, width := .w8, frac := 7 } : Operation).intBits
          ≤ spanValue .b10 [0x31] + carryUnit true := by decide +kernel

/-- Magnitude 128 at W = 8: inside the negative bound, above the positive one. -/
theorem witness_SignedBoundAndNegation :
    ((0x80#128) ||| 0#128).toNat ≤ 2 ^ (Width.w8.bits - 1) ∧ 2 ^ (Width.w8.bits - 1) - 1 < ((0x80#128) ||| 0#128).toNat := by
  decide

/-- For the four statements on the operations: the largest F of a width, and a literal that fits. -/
theorem witness_AboutToRun : AboutToRun .w8 8 (holding 0x0222 [0x31]) := ⟨rfl, by decide, one_fits⟩

theorem witness_StageRegistersOfAnOkParse :
    ∃ t, AboutToRun .w8 7 (holding 0x01C2 [0x31]) ∧ exec (.parseUB10 .w8 7) (holding 0x01C2 [0x31]) = .next t
      ∧ t.status = .ok := by
  have h : shown (exec (.parseUB10 .w8 7) (holding 0x01C2 [0x31])) = some (0, 0x80) := by
    rw [exec_legal rfl (by decide) one_fits]; decide +kernel
  cases he : exec (.parseUB10 .w8 7) (holding 0x01C2 [0x31]) with
  | next t =>
    refine ⟨t, ⟨rfl, by decide, one_fits⟩, rfl, ?_⟩
    rw [he] at h
    unfold shown at h
    dsimp only at h
    split at h
    · cases hs : t.status with
      | ok => rfl
      | error e => rw [hs] at h; cases e <;> simp [Status.code, ErrorKind.code] at h
    · cases h
  | fault r => rw [he] at h; cases h
  | refused r => rw [he] at h; cases h

theorem witness_OverflowExactlyOutOfRange :
    AboutToRun .w8 8 (holding 0x0222 [0x31])
      ∧ splitLiteral .b10 true (literalBytes (holding 0x0222 [0x31])) = .ok { neg := false, int := [0x31], frac := [] } :=
  ⟨⟨rfl, by decide, one_fits⟩, rfl⟩

theorem witness_IllegalFormsEndInConfigInvalid :
    busyOne.phase.isBusy = true ∧ (Instr.parseUB2 .w8 9).width.bits < (Instr.parseUB2 .w8 9).frac.toNat := by decide

theorem witness_NothingRunsOutsideATransaction : State.reset.phase.isBusy = false := rfl

/-- A machine at rest with one byte written. -/
def oneWritten : State := { State.reset with text := [(0, 0x31)] }

theorem witness_EveryEdgeKeepsTheInvariant : Inv oneWritten ∧ ∃ t, step oneWritten = .next t := by
  refine ⟨?_, _, rfl⟩
  exact
    { text_wf := rfl
      text_inside := by
        intro cell h
        have : cell = (0, 0x31) := by simpa [oneWritten] using h
        subst this
        exact textMaxLen_bounds.1
      busy_legal := by intro h; cases h
      busy_counted := by decide
      clear_until_done := fun _ => ⟨rfl, rfl⟩
      error_has_no_result := fun _ => rfl
      result_fits := by intro h; cases h
      carry_clears_field := by intro h; cases h
      spans := by intro h; cases h
      frac_fits := by intro h; cases h
      int_fits := by intro h; cases h }

theorem witness_NoEdgeStopsTheMachine : Inv oneWritten := witness_EveryEdgeKeepsTheInvariant.1

theorem witness_TransactionDeliversDecode :
    (PortIn.begin 0x0222 maxLen).start = true ∧ (PortIn.begin 0x0222 maxLen).rst = false
      ∧ State.reset.phase.isBusy = false ∧ cmdLegal 0x0222 maxLen = true ∧ (∀ n, ∀ q ∈ ([] : List PortIn).take n, q.rst = false)
      ∧ cmdLegal 0x4000 0 = false :=
  ⟨rfl, rfl, rfl, cmdLegal_of_fits (Nat.le_of_eq maxLen_toNat), by intro n q h; simp at h, by
    unfold cmdLegal; rw [decide_eq_false_iff_not]; rintro ⟨h, -⟩; revert h; decide⟩

/-- Two transactions of one request with latencies 1 and 3. -/
theorem witness_SameRequestSameOutcome :
    busyOne.phase = .tokenize ∧ { busyOne with busyLeft := 3, tick := 9 }.phase = .tokenize
      ∧ cmdLegal busyOne.cmd busyOne.len = true ∧ literalBytes { busyOne with busyLeft := 3, tick := 9 } = literalBytes busyOne
      ∧ 1 ≤ busyOne.busyLeft ∧ NoResetFor busyOne.busyLeft busyOne
      ∧ NoResetFor 3 { busyOne with busyLeft := 3, tick := 9 } :=
  ⟨rfl, rfl, cmdLegal_of_fits one_fits, rfl, by decide, by intro p h; simp [busyOne, holding, State.reset] at h, by
    intro p h; simp [busyOne, holding, State.reset] at h⟩

theorem witness_RequestEdgesLoadTheRequest :
    Memory.wf State.reset.text = true ∧ State.reset.phase.isBusy = false ∧ (Instr.parseSB10 .w8 8).wellFormed = true
      ∧ [0x31#8].length ≤ Config.textMaxLen := ⟨rfl, rfl, by decide, textMaxLen_bounds.1⟩

end Sys2Proof.Tests
end

/-! Half-width delegation (00_scope.md R13; 42_decimal_fraction.md R141; 43_integer_converter.md R172). The chain hands
over while the bits fit in half of the width, so each hand-over keeps the bits inside the width, and the chain stops at a
width whose half is too narrow: that width is the smallest one. -/

namespace Sys2Proof.Machine

theorem width_bits_le_128 (w : Width) : w.bits ≤ 128 := by cases w <;> decide

theorem narrower_bits {w : Width} (h : 8 < w.bits) : (narrower w).bits = w.bits / 2 := by
  cases w with
  | w8 => exact absurd h (by decide)
  | w16 | w32 | w64 | w128 => rfl

/-- A width is FW(n) when it holds n bits and the chain cannot hand n over from it. -/
theorem smallestWidth_eq_of_not_handOver {w : Width} {n : Nat} (hfits : n ≤ w.bits)
    (hstop : ¬ (8 < w.bits ∧ n ≤ w.bits / 2)) : smallestWidth n = w := by
  rw [smallestWidth]
  cases w with simp only [Width.bits] at hfits hstop
  | w8 => rw [if_pos hfits]
  | w16 => rw [if_neg (by omega), if_pos hfits]
  | w32 => rw [if_neg (by omega), if_neg (by omega), if_pos hfits]
  | w64 => rw [if_neg (by omega), if_neg (by omega), if_neg (by omega), if_pos hfits]
  | w128 => rw [if_neg (by omega), if_neg (by omega), if_neg (by omega), if_neg (by omega)]

/-- A chain with enough hand-overs left to reach width 8 ends at FW(n). -/
theorem delegateWithin_eq_smallestWidth {depth : Nat} {w : Width} {n : Nat} (hdepth : w.bits ≤ 8 * 2 ^ depth)
    (hfits : n ≤ w.bits) : delegateWithin depth w n = smallestWidth n := by
  induction depth generalizing w with
  | zero => exact (smallestWidth_eq_of_not_handOver hfits (by omega)).symm
  | succ depth ih =>
    rw [delegateWithin]
    split
    next hover =>
      have hhalf := narrower_bits hover.1
      exact ih (by omega) (by omega)
    next hstop => exact (smallestWidth_eq_of_not_handOver hfits hstop).symm

/-- Settles O28: four hand-overs lead from the widest converter to width 8, so the chain is never cut short. -/
theorem delegationEndsAtTheSmallestWidth : Obligations.DelegationEndsAtTheSmallestWidth :=
  fun w _ hfits => delegateWithin_eq_smallestWidth (width_bits_le_128 w) hfits

end Sys2Proof.Machine

/-! Positional values and rounding (20_memory.md R55; 00_scope.md R15): the facts the converters' proofs compute with. -/

namespace Sys2Proof.Machine

/-- A value carried into the digit loop is the digits before the ones still to come. -/
theorem foldl_eq_add_digitsValue (r : Nat) (digits : List Nat) (start : Nat) :
    digits.foldl (fun v d => v * r + d) start = start * r ^ digits.length + digitsValue r digits := by
  induction digits generalizing start with
  | nil => simp [digitsValue]
  | cons v rest ih =>
    have hcons : digitsValue r (v :: rest) = v * r ^ rest.length + digitsValue r rest := by
      rw [digitsValue, List.foldl_cons, ih]; simp
    rw [List.foldl_cons, ih, hcons, List.length_cons]
    ring

theorem digitsValue_cons (r v : Nat) (rest : List Nat) :
    digitsValue r (v :: rest) = v * r ^ rest.length + digitsValue r rest := by
  rw [digitsValue, List.foldl_cons, foldl_eq_add_digitsValue]; simp

theorem digitsValue_lt {r : Nat} {digits : List Nat} (hdigits : ∀ v ∈ digits, v < r) :
    digitsValue r digits < r ^ digits.length := by
  induction digits with
  | nil => simp [digitsValue]
  | cons v rest ih =>
    obtain ⟨hv, hrest⟩ := List.forall_mem_cons.mp hdigits
    calc digitsValue r (v :: rest) = v * r ^ rest.length + digitsValue r rest := digitsValue_cons r v rest
      _ < v * r ^ rest.length + r ^ rest.length := Nat.add_lt_add_left (ih hrest) _
      _ = (v + 1) * r ^ rest.length := by ring
      _ ≤ r * r ^ rest.length := Nat.mul_le_mul_right _ hv
      _ = r ^ (v :: rest).length := by rw [List.length_cons, Nat.pow_succ']

/-- Rounding goes by the ratio: a common factor cancels. -/
theorem roundHalfUp_mul_right {c : Nat} (hc : 0 < c) (n d : Nat) : roundHalfUp (n * c) (d * c) = roundHalfUp n d := by
  have hnum : 2 * (n * c) + d * c = (2 * n + d) * c := by ring
  have hden : 2 * (d * c) = 2 * d * c := by ring
  rw [roundHalfUp, roundHalfUp, hnum, hden, Nat.mul_div_mul_right _ _ hc]

theorem roundHalfUp_one (n : Nat) : roundHalfUp n 1 = n := by
  rw [roundHalfUp]; omega

/-- A fraction of at most `u` rounds to at most `u`. -/
theorem roundHalfUp_le {n d u : Nat} (hd : 0 < d) (h : n ≤ d * u) : roundHalfUp n d ≤ u := by
  rw [roundHalfUp, ← Nat.lt_add_one_iff, Nat.div_lt_iff_lt_mul (by omega)]
  nlinarith

end Sys2Proof.Machine

/-! The exact fraction converter (41_exact_fraction.md R120 to R131). Its answer is a number of units of 2^−F packed into
FRAC_FIELD and CARRY; the digit loop computes that number as the digits' value rounded half up, because the kept bits of the
boundary digit are a floor and its next bit is the half-up round of what is cut off. -/

namespace Sys2Proof.Machine

/-- q units of 2^−F as FRAC_FIELD and CARRY, 2^F units being one carry (10_state.md R31). -/
def fractionOfUnits (f q : Nat) : Fraction :=
  if 2 ^ f ≤ q then { field := 0, carry := true } else { field := BitVec.ofNat 128 q, carry := false }

theorem fractionOfUnits_of_lt {f q : Nat} (h : q < 2 ^ f) :
    fractionOfUnits f q = { field := BitVec.ofNat 128 q, carry := false } := if_neg (by omega)

theorem fractionOfUnits_of_ge {f q : Nat} (h : 2 ^ f ≤ q) :
    fractionOfUnits f q = { field := 0, carry := true } := if_pos h

theorem fractionOfUnits_isFractionOf {f q : Nat} (hq : q ≤ 2 ^ f) : IsFractionOf (fractionOfUnits f q) f q :=
  ⟨hq, fun h => fractionOfUnits_of_ge h.ge, fractionOfUnits_of_lt⟩

/-- What the registers of a fraction hold: with CARRY the field is 0, the field is below 2^F, and together they are the
units. -/
theorem IsFractionOf.registers {r : Fraction} {f q : Nat} (h : IsFractionOf r f q) (hf : f ≤ 128) :
    (r.carry = true → r.field = 0) ∧ r.field.toNat < 2 ^ f ∧ carryUnit r.carry * 2 ^ f + r.field.toNat = q := by
  obtain ⟨hle, hone, hfield⟩ := h
  rcases hle.lt_or_eq with hlt | heq
  · rw [hfield hlt]
    have hq : q < 2 ^ 128 := hlt.trans_le (Nat.pow_le_pow_right (by decide) hf)
    have hnat : (BitVec.ofNat 128 q).toNat = q := by rw [BitVec.toNat_ofNat, Nat.mod_eq_of_lt hq]
    exact ⟨nofun, by rwa [hnat], by simp [carryUnit, hnat]⟩
  · rw [hone heq]
    exact ⟨fun _ => rfl, Nat.two_pow_pos f, by simp [carryUnit, heq]⟩

/-- A floor by `2^(e+1)` plus the first bit cut off rounds half up. -/
theorem shiftRight_add_next_bit (v e : Nat) : v >>> (e + 1) + (v >>> e) % 2 = (v + 2 ^ e) / 2 ^ (e + 1) := by
  have hround : (v + 2 ^ e) / 2 ^ (e + 1) = (v / 2 ^ e + 1) / 2 := by
    rw [Nat.pow_succ, ← Nat.div_div_eq_div_mul, Nat.add_div_right _ (Nat.two_pow_pos e)]
  rw [hround, Nat.shiftRight_eq_div_pow, Nat.shiftRight_eq_div_pow, Nat.pow_succ, ← Nat.div_div_eq_div_mul]
  omega

theorem boundaryDigit_eq {d rem : Nat} (h : rem < d) (f acc v : Nat) :
    boundaryDigit d f rem acc v = fractionOfUnits f (acc * 2 ^ rem + (v + 2 ^ (d - rem - 1)) / 2 ^ (d - rem)) := by
  obtain ⟨e, he⟩ : ∃ e, d - rem = e + 1 := ⟨d - rem - 1, by omega⟩
  have hrounded : (if (v >>> e) &&& 1 = 1 then (acc <<< rem) + (v >>> (e + 1)) + 1 else (acc <<< rem) + (v >>> (e + 1)))
      = acc * 2 ^ rem + (v + 2 ^ e) / 2 ^ (e + 1) := by
    rw [← shiftRight_add_next_bit, Nat.shiftLeft_eq, Nat.and_one_is_mod]
    split <;> omega
  simp only [boundaryDigit, he, Nat.add_sub_cancel, hrounded, fractionOfUnits]

/-- Below the boundary digit the unread digits are less than half a unit and never change the round. -/
theorem roundHalfUp_boundary {d rem l tail : Nat} (h : rem < d) (htail : tail < 2 ^ (d * l)) (acc v : Nat) :
    roundHalfUp ((acc * 2 ^ (d * (l + 1)) + (v * 2 ^ (d * l) + tail)) * 2 ^ rem) (2 ^ (d * (l + 1)))
      = acc * 2 ^ rem + (v + 2 ^ (d - rem - 1)) / 2 ^ (d - rem) := by
  obtain ⟨e, rfl⟩ : ∃ e, d = rem + e + 1 := ⟨d - rem - 1, by omega⟩
  have hsub : rem + e + 1 - rem = e + 1 := by omega
  rw [hsub, Nat.add_sub_cancel]
  generalize hb : 2 ^ ((rem + e + 1) * l) = b at htail
  have hb0 : 0 < b := hb ▸ Nat.two_pow_pos _
  have hd : 2 ^ ((rem + e + 1) * (l + 1)) = b * (2 ^ rem * 2 ^ (e + 1)) := by
    rw [← hb, ← Nat.pow_add, ← Nat.pow_add]; ring_nf
  have hnum : 2 * ((acc * (b * (2 ^ rem * 2 ^ (e + 1))) + (v * b + tail)) * 2 ^ rem) + b * (2 ^ rem * 2 ^ (e + 1))
      = (tail + (v + 2 ^ e + acc * 2 ^ rem * 2 ^ (e + 1)) * b) * (2 * 2 ^ rem) := by ring
  have hden : 2 * (b * (2 ^ rem * 2 ^ (e + 1))) = b * 2 ^ (e + 1) * (2 * 2 ^ rem) := by ring
  rw [roundHalfUp, hd, hnum, hden, Nat.mul_div_mul_right _ _ (by positivity), ← Nat.div_div_eq_div_mul,
    Nat.add_mul_div_right _ _ hb0, Nat.div_eq_of_lt htail, Nat.zero_add, Nat.add_mul_div_right _ _ (by positivity),
    Nat.add_comm]

/-- The digit loop after some digits: `acc` holds them exactly, `rem` bits of the field are still free. -/
theorem exactLoop_eq {d f : Nat} (digits : List Nat) (rem acc : Nat) (hdigits : ∀ v ∈ digits, v < 2 ^ d)
    (hacc : (acc + 1) * 2 ^ rem ≤ 2 ^ f) :
    exactLoop d f digits rem acc
      = fractionOfUnits f (roundHalfUp ((acc * 2 ^ (d * digits.length) + digitsValue (2 ^ d) digits) * 2 ^ rem)
          (2 ^ (d * digits.length))) := by
  induction digits generalizing rem acc with
  | nil =>
    have hlt : acc * 2 ^ rem < 2 ^ f := by have := Nat.two_pow_pos rem; nlinarith
    simp [exactLoop, digitsValue, roundHalfUp_one, fractionOfUnits_of_lt hlt, Nat.shiftLeft_eq]
  | cons v rest ih =>
    obtain ⟨hv, hrest⟩ := List.forall_mem_cons.mp hdigits
    rw [exactLoop, digitsValue_cons, ← Nat.pow_mul, List.length_cons]
    split
    case isTrue hlast =>
      have htail : digitsValue (2 ^ d) rest < 2 ^ (d * rest.length) := by rw [Nat.pow_mul]; exact digitsValue_lt hrest
      rw [boundaryDigit_eq hlast, roundHalfUp_boundary hlast htail]
    case isFalse hmore =>
      have hrem : 2 ^ rem = 2 ^ (rem - d) * 2 ^ d := by rw [← Nat.pow_add]; congr 1; omega
      rw [Nat.shiftLeft_eq, ih _ _ hrest, ← roundHalfUp_mul_right (Nat.two_pow_pos d), hrem]
      · congr 2 <;> ring
      · calc (acc * 2 ^ d + v + 1) * 2 ^ (rem - d) ≤ (acc + 1) * 2 ^ d * 2 ^ (rem - d) :=
              Nat.mul_le_mul_right _ (by linarith)
          _ = (acc + 1) * 2 ^ rem := by rw [hrem]; ring
          _ ≤ 2 ^ f := hacc

/-- The exact converter's answer is the digits' value, rounded half up (R128). -/
theorem exactFraction_isFractionOf {d f : Nat} {digits : List Nat} (hdigits : ∀ v ∈ digits, v < 2 ^ d) :
    IsFractionOf (exactFraction d f digits) f
      (roundHalfUp (digitsValue (2 ^ d) digits * 2 ^ f) ((2 ^ d) ^ digits.length)) := by
  have heq := exactLoop_eq (f := f) digits f 0 hdigits (by simp)
  rw [exactFraction, heq, Nat.pow_mul, Nat.zero_mul, Nat.zero_add]
  refine fractionOfUnits_isFractionOf (roundHalfUp_le (by positivity) ?_)
  exact Nat.mul_le_mul_right _ (digitsValue_lt hdigits).le

end Sys2Proof.Machine

/-! The double-width unit (42_decimal_fraction.md R154 to R156) on naturals: the product and the quotient are exact, and the
pair operations are those on `hi × 2^128 + lo` as long as the result fits. -/

namespace Sys2Proof.Machine

/-- OR joins values that share no bit. -/
theorem mul_two_pow_or_eq_add {a b n : Nat} (hb : b < 2 ^ n) : (a * 2 ^ n) ||| b = a * 2 ^ n + b := by
  rw [Nat.mul_comm, Nat.two_pow_add_eq_or_of_lt hb]

theorem pairNat_pairAdd {a b : Pair} (hfits : pairNat a + pairNat b < 2 ^ 256) :
    pairNat (pairAdd a b) = pairNat a + pairNat b := by
  have ha := a.lo.isLt
  have hb := b.lo.isLt
  unfold pairNat at hfits
  simp only [pairNat, pairAdd, BitVec.lt_def, BitVec.toNat_add]
  split
  case isTrue hcarry => simp only [BitVec.ofNat_eq_ofNat, BitVec.toNat_ofNat]; omega
  case isFalse hnone => simp only [BitVec.ofNat_eq_ofNat, BitVec.toNat_ofNat]; omega

theorem pairNat_pairAddLow {p : Pair} {v : U128} (hfits : pairNat p + v.toNat < 2 ^ 256) :
    pairNat (pairAddLow p v) = pairNat p + v.toNat := by
  have hv : pairNat { hi := 0, lo := v } = v.toNat := by simp [pairNat]
  rw [pairAddLow, pairNat_pairAdd (by rwa [hv]), hv]

theorem pairNat_pairShl {p : Pair} {n : Nat} (hfits : pairNat p * 2 ^ n < 2 ^ 256) :
    pairNat (pairShl p n) = pairNat p * 2 ^ n := by
  have hlo := p.lo.isLt
  unfold pairNat at hfits
  unfold pairShl
  split
  case isTrue hn =>
    have hpow : 2 ^ 128 = 2 ^ (128 - n) * 2 ^ n := by rw [← Nat.pow_add]; congr 1; omega
    have hover : p.lo.toNat / 2 ^ (128 - n) < 2 ^ n := by
      rw [Nat.div_lt_iff_lt_mul (by positivity), Nat.mul_comm, ← hpow]; exact hlo
    have hhi : p.hi.toNat * 2 ^ n < 2 ^ 128 := by
      rw [Nat.add_mul, Nat.mul_right_comm] at hfits
      omega
    have hlow : p.lo.toNat * 2 ^ n % 2 ^ 128 = p.lo.toNat % 2 ^ (128 - n) * 2 ^ n := by
      rw [hpow, Nat.mul_mod_mul_right]
    have hsplit := Nat.div_add_mod p.lo.toNat (2 ^ (128 - n))
    simp only [pairNat, BitVec.toNat_or, BitVec.toNat_shiftLeft, BitVec.toNat_ushiftRight, Nat.shiftLeft_eq,
      Nat.shiftRight_eq_div_pow, Nat.mod_eq_of_lt hhi, mul_two_pow_or_eq_add hover, hlow]
    calc (p.hi.toNat * 2 ^ n + p.lo.toNat / 2 ^ (128 - n)) * 2 ^ 128 + p.lo.toNat % 2 ^ (128 - n) * 2 ^ n
        = (p.hi.toNat * 2 ^ 128
            + (2 ^ (128 - n) * (p.lo.toNat / 2 ^ (128 - n)) + p.lo.toNat % 2 ^ (128 - n))) * 2 ^ n := by
          rw [hpow]; ring
      _ = (p.hi.toNat * 2 ^ 128 + p.lo.toNat) * 2 ^ n := by rw [hsplit]
  case isFalse hn =>
    have hpow : 2 ^ n = 2 ^ (n - 128) * 2 ^ 128 := by rw [← Nat.pow_add]; congr 1; omega
    rw [hpow] at hfits ⊢
    have hpos := Nat.two_pow_pos (n - 128)
    have hhi : p.hi.toNat = 0 := by
      by_contra hne
      have : 1 * 1 ≤ p.hi.toNat * 2 ^ (n - 128) := Nat.mul_le_mul (by omega) hpos
      nlinarith
    have hsmall : p.lo.toNat * 2 ^ (n - 128) < 2 ^ 128 := by rw [hhi] at hfits; nlinarith
    simp only [pairNat, BitVec.toNat_shiftLeft, Nat.shiftLeft_eq, Nat.mod_eq_of_lt hsmall, hhi, BitVec.ofNat_eq_ofNat,
      BitVec.toNat_ofNat]
    ring

theorem pairNat_pairShr (p : Pair) (n : Nat) : pairNat (pairShr p n) = pairNat p / 2 ^ n := by
  have hlo := p.lo.isLt
  have hhi := p.hi.isLt
  unfold pairShr
  split
  case isTrue hn =>
    have hpow : 2 ^ 128 = 2 ^ n * 2 ^ (128 - n) := by rw [← Nat.pow_add]; congr 1; omega
    have hdown : p.lo.toNat / 2 ^ n < 2 ^ (128 - n) := by
      rw [Nat.div_lt_iff_lt_mul (by positivity), Nat.mul_comm, ← hpow]; exact hlo
    have hover : p.hi.toNat * 2 ^ (128 - n) % 2 ^ 128 = p.hi.toNat % 2 ^ n * 2 ^ (128 - n) := by
      rw [hpow, Nat.mul_mod_mul_right]
    have hwhole : pairNat p = p.lo.toNat + 2 ^ n * (p.hi.toNat * 2 ^ (128 - n)) := by
      rw [pairNat, hpow]; ring
    have hsplit := Nat.div_add_mod p.hi.toNat (2 ^ n)
    rw [hwhole, Nat.add_mul_div_left _ _ (Nat.two_pow_pos n)]
    simp only [pairNat, BitVec.toNat_or, BitVec.toNat_shiftLeft, BitVec.toNat_ushiftRight, Nat.shiftLeft_eq,
      Nat.shiftRight_eq_div_pow, hover]
    rw [Nat.or_comm, mul_two_pow_or_eq_add hdown]
    calc p.hi.toNat / 2 ^ n * 2 ^ 128 + (p.hi.toNat % 2 ^ n * 2 ^ (128 - n) + p.lo.toNat / 2 ^ n)
        = p.lo.toNat / 2 ^ n + (2 ^ n * (p.hi.toNat / 2 ^ n) + p.hi.toNat % 2 ^ n) * 2 ^ (128 - n) := by
          rw [hpow]; ring
      _ = p.lo.toNat / 2 ^ n + p.hi.toNat * 2 ^ (128 - n) := by rw [hsplit]
  case isFalse hn =>
    have hpow : 2 ^ n = 2 ^ 128 * 2 ^ (n - 128) := by rw [← Nat.pow_add]; exact congrArg _ (by omega)
    have hhigh : pairNat p / 2 ^ 128 = p.hi.toNat := by
      rw [pairNat, Nat.add_comm, Nat.add_mul_div_right _ _ (Nat.two_pow_pos 128), Nat.div_eq_of_lt hlo, Nat.zero_add]
    rw [hpow, ← Nat.div_div_eq_div_mul, hhigh]
    simp only [pairNat, BitVec.ofNat_eq_ofNat, BitVec.toNat_ofNat, BitVec.toNat_ushiftRight, Nat.shiftRight_eq_div_pow]
    omega

theorem pairGe_iff (a b : Pair) : pairGe a b = true ↔ pairNat b ≤ pairNat a := by
  have ha := a.lo.isLt
  have hb := b.lo.isLt
  simp only [pairGe, pairNat, Bool.or_eq_true, Bool.and_eq_true, decide_eq_true_eq, BitVec.lt_def, BitVec.le_def,
    ← BitVec.toNat_inj]
  omega

theorem lowHalf_toNat (x : U128) : (lowHalf x).toNat = x.toNat % 2 ^ 64 := by
  rw [lowHalf, BitVec.toNat_and]
  exact Nat.and_two_pow_sub_one_eq_mod x.toNat 64

theorem highHalf_toNat (x : U128) : (highHalf x).toNat = x.toNat / 2 ^ 64 := by
  rw [highHalf, BitVec.toNat_ushiftRight, Nat.shiftRight_eq_div_pow]

/-- The product of two u64 halves fits u128. -/
theorem toNat_mul_of_halves {x y : U128} (hx : x.toNat < 2 ^ 64) (hy : y.toNat < 2 ^ 64) :
    (x * y).toNat = x.toNat * y.toNat := by
  rw [BitVec.toNat_mul, Nat.mod_eq_of_lt]
  calc x.toNat * y.toNat < 2 ^ 64 * 2 ^ 64 := Nat.mul_lt_mul'' hx hy
    _ = 2 ^ 128 := by norm_num

/-- The partial products of the halves combine to the product; no carry is lost on the way (R154). -/
theorem pairNat_wideMul (x y : U128) : pairNat (wideMul x y) = x.toNat * y.toNat := by
  have hx := x.isLt
  have hy := y.isLt
  have hxl : (lowHalf x).toNat < 2 ^ 64 := by rw [lowHalf_toNat]; omega
  have hxh : (highHalf x).toNat < 2 ^ 64 := by rw [highHalf_toNat]; omega
  have hyl : (lowHalf y).toNat < 2 ^ 64 := by rw [lowHalf_toNat]; omega
  have hyh : (highHalf y).toNat < 2 ^ 64 := by rw [highHalf_toNat]; omega
  have hxsplit : x.toNat = (highHalf x).toNat * 2 ^ 64 + (lowHalf x).toNat := by
    rw [lowHalf_toNat, highHalf_toNat]; omega
  have hysplit : y.toNat = (highHalf y).toNat * 2 ^ 64 + (lowHalf y).toNat := by
    rw [lowHalf_toNat, highHalf_toNat]; omega
  have hproduct : x.toNat * y.toNat < 2 ^ 256 := by
    calc x.toNat * y.toNat < 2 ^ 128 * 2 ^ 128 := Nat.mul_lt_mul'' hx hy
      _ = 2 ^ 256 := by norm_num
  have hexpand : x.toNat * y.toNat
      = (highHalf x * highHalf y).toNat * 2 ^ 128
        + ((lowHalf x * highHalf y).toNat + (highHalf x * lowHalf y).toNat) * 2 ^ 64
        + (lowHalf x * lowHalf y).toNat := by
    rw [toNat_mul_of_halves hxh hyh, toNat_mul_of_halves hxl hyh, toNat_mul_of_halves hxh hyl,
      toNat_mul_of_halves hxl hyl, hxsplit, hysplit]
    ring
  rw [hexpand] at hproduct ⊢
  have h00 := (lowHalf x * lowHalf y).isLt
  have h01 := (lowHalf x * highHalf y).isLt
  have h10 := (highHalf x * lowHalf y).isLt
  simp only [wideMul, pairNat, BitVec.toNat_add, BitVec.toNat_or, BitVec.toNat_shiftLeft, lowHalf_toNat, highHalf_toNat,
    Nat.shiftLeft_eq]
  generalize (lowHalf x * lowHalf y).toNat = p00 at *
  generalize (lowHalf x * highHalf y).toNat = p01 at *
  generalize (highHalf x * lowHalf y).toNat = p10 at *
  generalize (highHalf x * highHalf y).toNat = p11 at *
  have hlow : ∀ m : Nat, m * 2 ^ 64 % 2 ^ 128 = m % 2 ^ 64 * 2 ^ 64 := by omega
  rw [hlow, mul_two_pow_or_eq_add (Nat.mod_lt _ (by positivity))]
  omega

/-- Under its precondition wide_div is the quotient, and the quotient fits (R155). -/
theorem wideDiv_eq_some {nh nl dv : U128} (h : nh.toNat < dv.toNat) :
    wideDiv nh nl dv = some (BitVec.ofNat 128 ((nh.toNat * 2 ^ 128 + nl.toNat) / dv.toNat)) := by
  have hne : dv ≠ 0 := by rintro rfl; simp at h
  rw [wideDiv, if_pos ⟨hne, h⟩]

end Sys2Proof.Machine

/-! The decimal fraction converter (42_decimal_fraction.md R140 to R158). The captured digits are the natural of R143; the
row constants of DIVTAB make the shift, the rounding add and the division one half-up round of R146; and the pair datapath of
width 128 is the same computation, no intermediate value leaving 256 bits. -/

namespace Sys2Proof.Machine

/-- Settles O27. -/
theorem romHoldsTheConstants : Obligations.RomHoldsTheConstants := by
  refine ⟨fun w => ?_, rfl, rfl, rfl, rfl, rfl, by decide⟩
  cases w <;> decide

theorem romRead_sh (w : Width) : (romRead w).sh = w.bits - (romRead w).k + 1 := (romHoldsTheConstants.1 w).1

theorem romRead_d (w : Width) : (romRead w).d = 2 * 5 ^ (romRead w).k := (romHoldsTheConstants.1 w).2.1

theorem romRead_hd (w : Width) : (romRead w).hd = 5 ^ (romRead w).k := (romHoldsTheConstants.1 w).2.2.2

theorem ten27_toNat : ten27.toNat = 10 ^ 27 := by decide

theorem romRead_k_le (w : Width) : (romRead w).k ≤ w.bits := by cases w <;> decide

theorem length_firstDigits (k : Nat) (digits : List Nat) : (firstDigits k digits).length = k := by
  simp only [firstDigits, List.length_append, List.length_take, List.length_replicate]; omega

theorem firstDigits_lt_ten {k : Nat} {digits : List Nat} (hdigits : ∀ v ∈ digits, v < 10) :
    ∀ v ∈ firstDigits k digits, v < 10 := by
  intro v hv
  rcases List.mem_append.mp hv with hv | hv
  · exact hdigits v (List.mem_of_mem_take hv)
  · rw [List.eq_of_mem_replicate hv]; decide

/-- The capture reads the first k digits, padded with zeros. -/
theorem captureFrom_eq (k : Nat) (digits : List Nat) (a : Nat) :
    captureFrom k digits a = a * 10 ^ k + digitsValue 10 (firstDigits k digits) := by
  induction k generalizing digits a with
  | zero => simp [captureFrom, firstDigits, digitsValue]
  | succ k ih =>
    cases digits with
    | nil =>
      have hfirst : firstDigits (k + 1) [] = 0 :: firstDigits k [] := by simp [firstDigits, List.replicate_succ]
      rw [captureFrom, ih, hfirst, digitsValue_cons, length_firstDigits]; ring
    | cons v rest =>
      have hfirst : firstDigits (k + 1) (v :: rest) = v :: firstDigits k rest := by simp [firstDigits]
      rw [captureFrom, ih, hfirst, digitsValue_cons, length_firstDigits]; ring

theorem capture_eq (k : Nat) (digits : List Nat) : capture k digits = digitsValue 10 (firstDigits k digits) := by
  rw [capture, captureFrom_eq, Nat.zero_mul, Nat.zero_add]

theorem capture_lt {k : Nat} {digits : List Nat} (hdigits : ∀ v ∈ digits, v < 10) : capture k digits < 10 ^ k := by
  have h := digitsValue_lt (firstDigits_lt_ten (k := k) hdigits)
  rwa [length_firstDigits, ← capture_eq] at h

/-- A capture in two chunks. -/
theorem captureFrom_add (k l : Nat) (digits : List Nat) (a : Nat) :
    captureFrom (k + l) digits a = captureFrom l (digits.drop k) (captureFrom k digits a) := by
  induction k generalizing digits a with
  | zero => simp [captureFrom]
  | succ k ih =>
    rw [Nat.add_right_comm]
    cases digits with
    | nil => rw [captureFrom, ih, captureFrom]; simp
    | cons v rest => rw [captureFrom, ih, captureFrom]; simp

theorem capture_add (k l : Nat) (digits : List Nat) :
    capture (k + l) digits = capture k digits * 10 ^ l + capture l (digits.drop k) := by
  rw [capture, captureFrom_add, captureFrom_eq, ← capture_eq]; rfl

/-- The pre-shift, the shift to F fraction bits, the rounding add and the division by D are one half-up round: the two floors
nest (R144, R146). -/
theorem scaled_div_eq_roundHalfUp {n k f w : Nat} (hk : k ≤ w) (hf : f ≤ w) :
    ((n <<< (w - k + 1)) >>> (w - f) + 5 ^ k) / (2 * 5 ^ k) = roundHalfUp (n * 2 ^ f) (10 ^ k) := by
  have hten : (10 : Nat) ^ k = 5 ^ k * 2 ^ k := by rw [← Nat.mul_pow]
  have hw : 2 ^ w = 2 ^ f * 2 ^ (w - f) := by rw [← Nat.pow_add]; exact congrArg _ (by omega)
  have hwk : 2 ^ (w - k + 1) * 2 ^ k = 2 * 2 ^ w := by
    rw [← Nat.pow_add, ← Nat.pow_succ']; exact congrArg _ (by omega)
  have hjoin : (n * 2 ^ (w - k + 1)) / 2 ^ (w - f) + 5 ^ k
      = (n * 2 ^ (w - k + 1) + 5 ^ k * 2 ^ (w - f)) / 2 ^ (w - f) := by
    rw [Nat.add_mul_div_right _ _ (Nat.two_pow_pos _)]
  have hnum : (n * 2 ^ (w - k + 1) + 5 ^ k * 2 ^ (w - f)) * 2 ^ k
      = (2 * (n * 2 ^ f) + 5 ^ k * 2 ^ k) * 2 ^ (w - f) := by
    rw [Nat.add_mul, Nat.mul_assoc n, hwk, hw]; ring
  rw [Nat.shiftLeft_eq, Nat.shiftRight_eq_div_pow, hjoin, Nat.div_div_eq_div_mul, roundHalfUp, hten,
    ← Nat.mul_div_mul_right _ _ (Nat.two_pow_pos k), hnum,
    ← Nat.mul_div_mul_right (2 * (n * 2 ^ f) + 5 ^ k * 2 ^ k) _ (Nat.two_pow_pos (w - f))]
  congr 1; ring

/-- The carry test before the division is the test of the quotient against one whole unit (R145, R152). -/
theorem carry_test_iff {rounded d f : Nat} (hd : 0 < d) : d ≤ rounded >>> f ↔ 2 ^ f ≤ rounded / d := by
  rw [Nat.shiftRight_eq_div_pow, Nat.le_div_iff_mul_le (Nat.two_pow_pos f), Nat.le_div_iff_mul_le hd, Nat.mul_comm]

theorem decimalNarrow_eq {w : Width} {f : Nat} (hf : f ≤ w.bits) (digits : List Nat) :
    decimalNarrow w f digits
      = fractionOfUnits f (roundHalfUp (capture (romRead w).k digits * 2 ^ f) (10 ^ (romRead w).k)) := by
  have hd : 0 < 2 * 5 ^ (romRead w).k := by positivity
  simp only [decimalNarrow, romRead_sh, romRead_d, romRead_hd, carry_test_iff hd, fractionOfUnits,
    scaled_div_eq_roundHalfUp (romRead_k_le w) hf]

/-- The chunks joined are the 54 captured digits (R148, R149). -/
theorem pairNat_joined {digits : List Nat} (hdigits : ∀ v ∈ digits, v < 10) :
    pairNat (pairAddLow (wideMul (BitVec.ofNat 128 (capture 27 digits)) ten27)
        (BitVec.ofNat 128 (capture 27 (digits.drop 27))))
      = capture 54 digits := by
  have hhi := capture_lt (k := 27) hdigits
  have hlo := capture_lt (k := 27) (digits := digits.drop 27) fun v hv => hdigits v (List.mem_of_mem_drop hv)
  have hchunks : capture 54 digits = capture 27 digits * 10 ^ 27 + capture 27 (digits.drop 27) := capture_add 27 27 digits
  have hmul : pairNat (wideMul (BitVec.ofNat 128 (capture 27 digits)) ten27) = capture 27 digits * 10 ^ 27 := by
    rw [pairNat_wideMul, ten27_toNat, BitVec.toNat_ofNat, Nat.mod_eq_of_lt (by omega)]
  have hlonat : (BitVec.ofNat 128 (capture 27 (digits.drop 27))).toNat = capture 27 (digits.drop 27) := by
    rw [BitVec.toNat_ofNat, Nat.mod_eq_of_lt (by omega)]
  rw [pairNat_pairAddLow, hmul, hlonat, hchunks]
  rw [hmul, hlonat]
  omega

/-- The pair datapath up to the carry test holds the natural-number values: nothing passes 2^256 (R150, R151, R157). -/
theorem pairNat_rounded {joined : Pair} {n : Nat} (hjoined : pairNat joined = n) (hn : n < 10 ^ 54) (f : Nat) :
    pairNat (pairAddLow (pairShr (pairShl joined (romRead .w128).sh) (128 - f)) (BitVec.ofNat 128 (romRead .w128).hd))
      = (n <<< (romRead .w128).sh) >>> (128 - f) + (romRead .w128).hd := by
  have hshl : pairNat (pairShl joined (romRead .w128).sh) = n * 2 ^ (romRead .w128).sh := by
    rw [pairNat_pairShl, hjoined]
    rw [hjoined]; simp only [romRead]; omega
  have hshr : pairNat (pairShr (pairShl joined (romRead .w128).sh) (128 - f))
      = (n <<< (romRead .w128).sh) >>> (128 - f) := by
    rw [pairNat_pairShr, hshl, Nat.shiftLeft_eq, Nat.shiftRight_eq_div_pow]
  have hhd : (BitVec.ofNat 128 (romRead .w128).hd).toNat = (romRead .w128).hd := by decide
  rw [pairNat_pairAddLow, hshr, hhd]
  rw [hshr, hhd]
  have hle : (n <<< (romRead .w128).sh) >>> (128 - f) ≤ n * 2 ^ (romRead .w128).sh := by
    rw [Nat.shiftLeft_eq, Nat.shiftRight_eq_div_pow]; exact Nat.div_le_self _ _
  simp only [romRead] at hle ⊢
  omega

/-- The carry test and the division on a pair answer its quotient by D, in units; wide_div's precondition holds because the
quotient is below one whole unit (R152, R153). -/
theorem wide_answer_eq {f : Nat} (hf : f ≤ 128) (rounded : Pair) :
    (if pairGe (pairShr rounded f) { hi := 0, lo := BitVec.ofNat 128 (romRead .w128).d } = true then
        some { field := 0, carry := true }
      else (wideDiv rounded.hi rounded.lo (BitVec.ofNat 128 (romRead .w128).d)).map fun q =>
        { field := q, carry := false })
      = some (fractionOfUnits f (pairNat rounded / (romRead .w128).d)) := by
  have hd : (BitVec.ofNat 128 (romRead .w128).d).toNat = (romRead .w128).d := by decide
  have hdpair : pairNat { hi := 0, lo := BitVec.ofNat 128 (romRead .w128).d } = (romRead .w128).d := by
    simp [pairNat, hd]
  have htest : pairGe (pairShr rounded f) { hi := 0, lo := BitVec.ofNat 128 (romRead .w128).d } = true
      ↔ 2 ^ f ≤ pairNat rounded / (romRead .w128).d := by
    rw [pairGe_iff, hdpair, pairNat_pairShr, ← Nat.shiftRight_eq_div_pow, carry_test_iff (by decide)]
  simp only [htest]
  split
  case isTrue hcarry => rw [fractionOfUnits_of_ge hcarry]
  case isFalse hnone =>
    have hquotient : pairNat rounded / (romRead .w128).d < 2 ^ 128 :=
      (not_le.mp hnone).trans_le (Nat.pow_le_pow_right (by decide) hf)
    have hprecondition : rounded.hi.toNat < (BitVec.ofNat 128 (romRead .w128).d).toNat := by
      rw [Nat.div_lt_iff_lt_mul (by decide)] at hquotient
      rw [hd]; unfold pairNat at hquotient; omega
    rw [fractionOfUnits_of_lt (not_le.mp hnone), wideDiv_eq_some hprecondition, hd]
    rfl

/-- The pair datapath of width 128 is the natural-number datapath (R148 to R153). -/
theorem decimalWide_eq_decimalNarrow {f : Nat} {digits : List Nat} (hf : f ≤ 128) (hdigits : ∀ v ∈ digits, v < 10) :
    decimalWide f digits = some (decimalNarrow .w128 f digits) := by
  have hrounded := pairNat_rounded (pairNat_joined hdigits) (capture_lt hdigits) f
  have hround := scaled_div_eq_roundHalfUp (n := capture 54 digits) (romRead_k_le .w128) hf
  rw [← romRead_sh .w128, ← romRead_d .w128, ← romRead_hd .w128] at hround
  rw [decimalNarrow_eq hf, decimalWide, wide_answer_eq hf, hrounded]
  exact congrArg (fun q => some (fractionOfUnits f q)) hround

theorem le_smallestWidth_bits {n : Nat} (hn : n ≤ 128) : n ≤ (smallestWidth n).bits := by
  unfold smallestWidth
  split_ifs <;> simp only [Width.bits] <;> omega

/-- DECIMAL_FRACTION at every layout is one half-up round of the captured digits (R146). -/
theorem decimalFraction_eq {total : Width} {f : Nat} {digits : List Nat} (hf : f ≤ total.bits)
    (hdigits : ∀ v ∈ digits, v < 10) :
    decimalFraction total f digits
      = some (fractionOfUnits f
          (roundHalfUp (digitsValue 10 (firstDigits (digitLimit f) digits) * 2 ^ f) (10 ^ digitLimit f))) := by
  have hf128 : f ≤ 128 := hf.trans (width_bits_le_128 total)
  rw [← capture_eq, digitLimit, ← decimalNarrow_eq (le_smallestWidth_bits hf128), decimalFraction,
    delegationEndsAtTheSmallestWidth total f hf]
  split
  case h_1 hw => rw [hw]; exact decimalWide_eq_decimalNarrow hf128 hdigits
  case h_2 => rfl

theorem decimalFraction_isFractionOf {total : Width} {f : Nat} {digits : List Nat} (hf : f ≤ total.bits)
    (hdigits : ∀ v ∈ digits, v < 10) :
    ∃ r, decimalFraction total f digits = some r ∧ IsFractionOf r f
      (roundHalfUp (digitsValue 10 (firstDigits (digitLimit f) digits) * 2 ^ f) (10 ^ digitLimit f)) := by
  refine ⟨_, decimalFraction_eq hf hdigits, fractionOfUnits_isFractionOf (roundHalfUp_le (by positivity) ?_)⟩
  rw [← capture_eq]
  exact Nat.mul_le_mul_right _ (capture_lt hdigits).le

end Sys2Proof.Machine

/-! Digits and the integer converter (30_encoding.md R79, R80; 43_integer_converter.md R170 to R180). The parse loop stops
exactly when the whole value passes the working width, because a value only grows as digits are read; and a value past the
working width is past IB bits too. -/

namespace Sys2Proof.Machine

theorem digitValue_lt_radix {base : Base} {c : Byte} (h : isDigit base c = true) : digitValue c < base.radix := by
  cases base <;> simp only [isDigit, decide_eq_true_eq] at h
  all_goals simp only [digitValue, Base.radix]; split_ifs <;> omega

/-- Only the character `0` is worth 0. -/
theorem digitValue_pos {base : Base} {c : Byte} (h : isDigit base c = true) (hc : c ≠ charZero) : 0 < digitValue c := by
  have hn : c.toNat ≠ 0x30 := fun hn => hc (BitVec.eq_of_toNat_eq hn)
  cases base <;> simp only [isDigit, decide_eq_true_eq] at h
  all_goals simp only [digitValue]; split_ifs <;> omega

theorem digitValue_charZero : digitValue charZero = 0 := by decide

theorem map_digitValue_lt_radix {base : Base} {digits : List Byte} (h : ∀ c ∈ digits, isDigit base c = true) :
    ∀ v ∈ digits.map digitValue, v < base.radix :=
  List.forall_mem_map.mpr fun c hc => digitValue_lt_radix (h c hc)

theorem Base.radix_pos (base : Base) : 0 < base.radix := by cases base <;> decide

theorem spanValue_cons (base : Base) (c : Byte) (rest : List Byte) :
    spanValue base (c :: rest) = digitValue c * base.radix ^ rest.length + spanValue base rest := by
  simp only [spanValue, List.map_cons, digitsValue_cons, List.length_map]

theorem stripZeros_cons_zero (rest : List Byte) : stripZeros (charZero :: rest) = stripZeros rest := by
  simp [stripZeros]

theorem stripZeros_cons_of_ne {c : Byte} (hc : c ≠ charZero) (rest : List Byte) :
    stripZeros (c :: rest) = c :: rest := by
  simp [stripZeros, hc]

theorem spanValue_cons_zero (base : Base) (rest : List Byte) :
    spanValue base (charZero :: rest) = spanValue base rest := by
  rw [spanValue_cons, digitValue_charZero, Nat.zero_mul, Nat.zero_add]

/-- Leading zeros are worth nothing (R171). -/
theorem spanValue_stripZeros (base : Base) (digits : List Byte) :
    spanValue base (stripZeros digits) = spanValue base digits := by
  induction digits with
  | nil => rfl
  | cons c rest ih =>
    by_cases hc : c = charZero
    · rw [hc, stripZeros_cons_zero, spanValue_cons_zero, ih]
    · rw [stripZeros_cons_of_ne hc]

/-- A stripped span is empty exactly when its value is 0: a digit that is left leads with a value of at least 1 (R173). -/
theorem stripZeros_eq_nil_iff {base : Base} {digits : List Byte} (h : ∀ c ∈ digits, isDigit base c = true) :
    stripZeros digits = [] ↔ spanValue base digits = 0 := by
  induction digits with
  | nil => exact ⟨fun _ => rfl, fun _ => rfl⟩
  | cons c rest ih =>
    obtain ⟨hdigit, hrest⟩ := List.forall_mem_cons.mp h
    by_cases hc : c = charZero
    · rw [hc, stripZeros_cons_zero, spanValue_cons_zero, ih hrest]
    · have hpos : 0 < digitValue c * base.radix ^ rest.length :=
        Nat.mul_pos (digitValue_pos hdigit hc) (Nat.pow_pos base.radix_pos)
      rw [stripZeros_cons_of_ne hc, spanValue_cons]
      simp only [reduceCtorEq, false_iff]
      omega

/-- The parse loop gives the value of the digits, or Overflow when it takes more than the working width (R174). -/
theorem parseInteger_eq (base : Base) (wI : Nat) (digits : List Byte) (v : Nat) (hv : v < 2 ^ wI) :
    parseInteger base.radix wI digits v
      = if 2 ^ wI ≤ v * base.radix ^ digits.length + spanValue base digits then none
        else some (v * base.radix ^ digits.length + spanValue base digits) := by
  induction digits generalizing v with
  | nil => simp [parseInteger, spanValue, digitsValue, hv]
  | cons c rest ih =>
    have hvalue : v * base.radix ^ (c :: rest).length + spanValue base (c :: rest)
        = (v * base.radix + digitValue c) * base.radix ^ rest.length + spanValue base rest := by
      rw [spanValue_cons, List.length_cons]; ring
    rw [parseInteger, hvalue]
    split
    case isTrue hover =>
      have hgrows : v * base.radix + digitValue c ≤ (v * base.radix + digitValue c) * base.radix ^ rest.length :=
        Nat.le_mul_of_pos_right _ (Nat.pow_pos base.radix_pos)
      rw [if_pos (by omega)]
    case isFalse hfits => exact ih _ (by omega)

theorem addCarry_eq (wI : Nat) (carry : Bool) (v : Nat) (hv : v < 2 ^ wI) :
    addCarry wI carry v = if 2 ^ wI ≤ v + carryUnit carry then none else some (v + carryUnit carry) := by
  cases carry with
  | false => rw [if_neg (by simp [carryUnit, hv])]; rfl
  | true => rfl

theorem intBits_le (op : Operation) : op.intBits ≤ op.width.bits := Nat.sub_le _ _

/-- The integer converter's flat form: delegation, working width and the order of its checks are not seen (R178). -/
theorem integerConvert_eq {op : Operation} {carry : Bool} {digits : List Byte}
    (hdigits : ∀ c ∈ digits, isDigit op.base c = true) :
    integerConvert op carry digits
      = if 2 ^ op.intBits ≤ spanValue op.base digits + carryUnit carry then none
        else some ((spanValue op.base digits + carryUnit carry) * 2 ^ op.frac) := by
  rw [integerConvert]
  split
  case isTrue hnone =>
    simp only [hnone, stripZeros_eq_nil_iff hdigits]
    cases carry with
    | false => by_cases hzero : spanValue op.base digits = 0 <;> simp [hzero, carryUnit, Nat.one_le_iff_ne_zero]
    | true => simp [carryUnit]
  case isFalse hsome =>
    have hwI : 2 ^ op.intBits ≤ 2 ^ (delegate op.width op.intBits).bits := by
      rw [delegationEndsAtTheSmallestWidth _ _ (intBits_le op)]
      exact Nat.pow_le_pow_right (by decide)
        (le_smallestWidth_bits ((intBits_le op).trans (width_bits_le_128 op.width)))
    simp only [parseInteger_eq _ _ _ 0 (Nat.two_pow_pos _), spanValue_stripZeros, Nat.zero_mul, Nat.zero_add]
    by_cases hparse : 2 ^ (delegate op.width op.intBits).bits ≤ spanValue op.base digits
    · rw [if_pos hparse, if_pos (by omega)]
    · rw [if_neg hparse]
      simp only [addCarry_eq _ _ _ (not_le.mp hparse)]
      by_cases hadd : 2 ^ (delegate op.width op.intBits).bits ≤ spanValue op.base digits + carryUnit carry
      · rw [if_pos hadd, if_pos (by omega)]
      · rw [if_neg hadd, ← Nat.shiftLeft_eq]

/-- An integer field that the converter gives is aligned at F and lies within W bits (10_state.md R32). -/
theorem integer_field_fits {op : Operation} (hfrac : op.frac ≤ op.width.bits) {v : Nat} (hv : v < 2 ^ op.intBits) :
    v * 2 ^ op.frac < 2 ^ op.width.bits ∧ (BitVec.ofNat 128 (v * 2 ^ op.frac)).toNat = v * 2 ^ op.frac := by
  have hfits : v * 2 ^ op.frac < 2 ^ op.width.bits := by
    calc v * 2 ^ op.frac < 2 ^ op.intBits * 2 ^ op.frac := Nat.mul_lt_mul_of_pos_right hv (Nat.two_pow_pos _)
      _ = 2 ^ op.width.bits := by rw [← Nat.pow_add, Operation.intBits, Nat.sub_add_cancel hfrac]
  refine ⟨hfits, ?_⟩
  rw [BitVec.toNat_ofNat, Nat.mod_eq_of_lt]
  exact hfits.trans_le (Nat.pow_le_pow_right (by decide) (width_bits_le_128 op.width))

end Sys2Proof.Machine

/-! The tokenizer against the literal grammar (30_encoding.md R81; 40_tokenizer.md R100 to R111). The scan walks over a sign,
the digits of the integer span, a point and the digits of the fraction span as `splitLiteral` takes them off, and it stops at
the byte that ends a span too early, with that byte's error. -/

namespace Sys2Proof.Machine

/-- The record `r` of an accepted text points at its parts `p`, between the sign `sign` and the fraction part `tail`. -/
structure RecordSplits (base : Base) (negOk : Bool) (text : List Byte) (r : LiteralRecord) (p : Parts)
    (sign tail : List Byte) : Prop where
  text_eq : text = sign ++ p.int ++ tail
  sign_cases : (sign = [] ∧ p.neg = false) ∨ (sign = [charPlus] ∧ p.neg = false)
    ∨ (sign = [charMinus] ∧ negOk = true ∧ p.neg = true)
  tail_cases : (tail = [] ∧ p.frac = [] ∧ r.fracLo = text.length)
    ∨ (tail = charPoint :: p.frac ∧ r.fracLo = r.intHi + 1)
  int_digits : ∀ c ∈ p.int, isDigit base c = true
  frac_digits : ∀ c ∈ p.frac, isDigit base c = true
  some_digit : p.int ≠ [] ∨ p.frac ≠ []
  neg_eq : r.neg = p.neg
  intLo_eq : r.intLo = sign.length
  intHi_eq : r.intHi = sign.length + p.int.length
  fracHi_eq : r.fracHi = text.length

/-! ## One byte of the scan -/

theorem isDigit_ne_special {base : Base} {c : Byte} (h : isDigit base c = true) :
    c ≠ charPoint ∧ c ≠ charPlus ∧ c ≠ charMinus := by
  refine ⟨?_, ?_, ?_⟩ <;> rintro rfl <;> cases base <;> exact absurd h (by decide)

theorem scanByte_digit {base : Base} {c : Byte} (h : isDigit base c = true) (negOk : Bool) (i : Nat) (st : Scan) :
    scanByte base negOk i c st = .ok { st with digitSeen := true } := by
  obtain ⟨hpoint, hplus, hminus⟩ := isDigit_ne_special h
  simp [scanByte, hpoint, hplus, hminus, h]

theorem scanByte_firstPoint {st : Scan} (h : st.pointAt = none) (base : Base) (negOk : Bool) (i : Nat) :
    scanByte base negOk i charPoint st = .ok { st with pointAt := some i } := by
  simp [scanByte, h]

/-- A byte that no span can go on with raises its error: a point after a point, a sign that is late or not allowed, or any
other byte that is no digit (R102 to R106). -/
theorem scanByte_stray {base : Base} {negOk : Bool} {c : Byte} {st : Scan} (hdigit : isDigit base c = false)
    (hpoint : c = charPoint → st.pointAt.isSome = true)
    (hsign : st.signTooLate = true ∨ (c ≠ charPlus ∧ (c = charMinus → negOk = false))) (i : Nat) :
    scanByte base negOk i c st = .error (strayByte c) := by
  by_cases hp : c = charPoint
  · simp [scanByte, strayByte, hp, hpoint hp]
  · by_cases hplus : c = charPlus
    · have hlate : st.signTooLate = true := hsign.resolve_right fun h => h.1 hplus
      simp only [scanByte, strayByte, if_neg hp, if_pos hplus, if_pos hlate]
    · by_cases hminus : c = charMinus
      · have hrefused : (!negOk || st.signTooLate) = true := by
          rcases hsign with hlate | ⟨-, hnot⟩
          · simp [hlate]
          · simp [hnot hminus]
        simp only [scanByte, strayByte, if_neg hp, if_neg hplus, if_pos hminus, if_pos hrefused]
      · simp [scanByte, strayByte, hp, hplus, hminus, hdigit]

/-! ## The scan over a span and over the sign -/

theorem scan_digits {base : Base} {digits : List Byte} (h : ∀ c ∈ digits, isDigit base c = true) (negOk : Bool) (i : Nat)
    (rest : List Byte) (st : Scan) :
    scan base negOk i (digits ++ rest) st
      = scan base negOk (i + digits.length) rest { st with digitSeen := st.digitSeen || !digits.isEmpty } := by
  induction digits generalizing i st with
  | nil => simp
  | cons c digits ih =>
    obtain ⟨hc, hdigits⟩ := List.forall_mem_cons.mp h
    rw [List.cons_append, scan, scanByte_digit hc]
    simp only [ih hdigits, List.length_cons, List.isEmpty_cons, Bool.not_false, Bool.or_true, Bool.true_or,
      Nat.add_assoc, Nat.add_comm 1]

theorem scan_stray {base : Base} {negOk : Bool} {c : Byte} {st : Scan} (hdigit : isDigit base c = false)
    (hpoint : c = charPoint → st.pointAt.isSome = true)
    (hsign : st.signTooLate = true ∨ (c ≠ charPlus ∧ (c = charMinus → negOk = false))) (i : Nat) (rest : List Byte) :
    scan base negOk i (c :: rest) st = .error (strayByte c) := by
  rw [scan, scanByte_stray hdigit hpoint hsign]

theorem scan_firstPoint {st : Scan} (h : st.pointAt = none) (base : Base) (negOk : Bool) (i : Nat) (rest : List Byte) :
    scan base negOk i (charPoint :: rest) st = scan base negOk (i + 1) rest { st with pointAt := some i } := by
  rw [scan, scanByte_firstPoint h]

/-- The scan state behind a sign. -/
def scanAfterSign (sign : List Byte) (neg : Bool) : Scan :=
  { signSeen := !sign.isEmpty, neg := neg, digitSeen := false, pointAt := none }

/-- The optional sign: what it leaves, the scan behind it, and where there is none, a first byte that is no sign. -/
theorem splitSign_scan (base : Base) (negOk : Bool) (text : List Byte) :
    ∃ sign neg body, splitSign negOk text = (neg, body) ∧ text = sign ++ body
      ∧ ((sign = [] ∧ neg = false) ∨ (sign = [charPlus] ∧ neg = false)
        ∨ (sign = [charMinus] ∧ negOk = true ∧ neg = true))
      ∧ scan base negOk 0 text scanStart = scan base negOk sign.length body (scanAfterSign sign neg)
      ∧ (sign = [] → ∀ c ∈ body.head?, c ≠ charPlus ∧ (c = charMinus → negOk = false)) := by
  cases text with
  | nil => exact ⟨[], false, [], rfl, rfl, .inl ⟨rfl, rfl⟩, rfl, by simp⟩
  | cons c rest =>
    by_cases hplus : c = charPlus
    · exact ⟨[charPlus], false, rest, by simp [splitSign, hplus], by simp [hplus], .inr (.inl ⟨rfl, rfl⟩),
        by rw [hplus]; rfl, by simp⟩
    · by_cases hminus : c = charMinus ∧ negOk = true
      · obtain ⟨rfl, rfl⟩ := hminus
        exact ⟨[charMinus], true, rest, rfl, rfl, .inr (.inr ⟨rfl, rfl, rfl⟩), rfl, by simp⟩
      · refine ⟨[], false, c :: rest, by simp [splitSign, hplus, hminus], rfl, .inl ⟨rfl, rfl⟩, rfl, ?_⟩
        simpa [hplus] using hminus

/-! ## The whole text -/

theorem tokenize_of_scan_ok {base : Base} {negOk : Bool} {text : List Byte} {st : Scan}
    (h : scan base negOk 0 text scanStart = .ok st) :
    tokenize base negOk text
      = if st.digitSeen = true then .ok (literalRecord text.length st) else .error .noDigits := by
  rw [tokenize, h]

theorem tokenize_of_scan_error {base : Base} {negOk : Bool} {text : List Byte} {e : ErrorKind}
    (h : scan base negOk 0 text scanStart = .error e) : tokenize base negOk text = .error e := by
  rw [tokenize, h]

/-- A text scanned as a sign, digits, and a point with digits or no point: accepted with the record of its spans, or without
any digit. -/
theorem tokenize_of_parts {base : Base} {negOk : Bool} {text sign tail : List Byte} {p : Parts} {pointAt : Option Nat}
    (htext : text = sign ++ p.int ++ tail)
    (hsign : (sign = [] ∧ p.neg = false) ∨ (sign = [charPlus] ∧ p.neg = false)
      ∨ (sign = [charMinus] ∧ negOk = true ∧ p.neg = true))
    (htail : (tail = [] ∧ p.frac = [] ∧ pointAt = none)
      ∨ (tail = charPoint :: p.frac ∧ pointAt = some (sign.length + p.int.length)))
    (hint : ∀ c ∈ p.int, isDigit base c = true) (hfrac : ∀ c ∈ p.frac, isDigit base c = true)
    (hscan : scan base negOk 0 text scanStart
      = .ok { scanAfterSign sign p.neg with digitSeen := !p.int.isEmpty || !p.frac.isEmpty, pointAt := pointAt }) :
    (∃ e, partsOrNoDigits p = .error e ∧ tokenize base negOk text = .error e)
      ∨ ∃ q r sign tail, partsOrNoDigits p = .ok q ∧ tokenize base negOk text = .ok r
          ∧ RecordSplits base negOk text r q sign tail := by
  rw [tokenize_of_scan_ok hscan, partsOrNoDigits]
  by_cases hnone : p.int = [] ∧ p.frac = []
  · obtain ⟨hnoint, hnofrac⟩ := hnone
    exact .inl ⟨.noDigits, by simp [hnoint, hnofrac], by simp [hnoint, hnofrac]⟩
  · have hsome : p.int ≠ [] ∨ p.frac ≠ [] := by simpa only [ne_eq, not_and_or] using hnone
    refine .inr ⟨p, _, sign, tail, if_neg hnone, if_pos (by simpa using hsome), ?_⟩
    have hlo : (if (!sign.isEmpty) = true then 1 else 0) = sign.length := by
      rcases hsign with ⟨rfl, -⟩ | ⟨rfl, -⟩ | ⟨rfl, -⟩ <;> rfl
    rcases htail with ⟨rfl, hnofrac, rfl⟩ | ⟨rfl, rfl⟩
    · exact ⟨htext, hsign, .inl ⟨rfl, hnofrac, rfl⟩, hint, hfrac, hsome, rfl, hlo, by simp [literalRecord, htext], rfl⟩
    · exact ⟨htext, hsign, .inr ⟨rfl, rfl⟩, hint, hfrac, hsome, rfl, hlo, rfl, rfl⟩

theorem isDigit_of_dropWhile_eq_cons {base : Base} {l rest : List Byte} {c : Byte}
    (h : l.dropWhile (isDigit base) = c :: rest) : isDigit base c = false := by
  have := List.head?_dropWhile_not (isDigit base) l
  simpa [h] using this

theorem isDigit_of_mem_takeWhile {base : Base} {l : List Byte} :
    ∀ c ∈ l.takeWhile (isDigit base), isDigit base c = true := fun _ h => List.mem_takeWhile_imp h

/-- TOKENIZE reads a text as its grammar does: the same error, or the record of its parts (R81, R107 to R110). -/
theorem tokenize_follows_splitLiteral (base : Base) (negOk : Bool) (text : List Byte) :
    (∃ e, splitLiteral base negOk text = .error e ∧ tokenize base negOk text = .error e)
      ∨ ∃ p r sign tail, splitLiteral base negOk text = .ok p ∧ tokenize base negOk text = .ok r
          ∧ RecordSplits base negOk text r p sign tail := by
  obtain ⟨sign, neg, body, hsplit, htext, hsign, hscan, hfirst⟩ := splitSign_scan base negOk text
  have hbody := List.takeWhile_append_dropWhile (p := isDigit base) (l := body)
  have hint : ∀ c ∈ body.takeWhile (isDigit base), isDigit base c = true := isDigit_of_mem_takeWhile
  simp only [splitLiteral, hsplit]
  generalize body.takeWhile (isDigit base) = int at *
  rw [← hbody, scan_digits hint] at hscan
  cases hrest : body.dropWhile (isDigit base) with
  | nil =>
    rw [hrest, scan] at hscan
    exact tokenize_of_parts (by rw [htext, ← hbody, hrest]; simp) hsign (.inl ⟨rfl, rfl, rfl⟩) hint nofun
      (by rw [hscan]; simp [scanAfterSign])
  | cons c afterInt =>
    have hc := isDigit_of_dropWhile_eq_cons hrest
    rw [hrest] at hscan
    by_cases hpoint : c = charPoint
    · subst hpoint
      have hafter := List.takeWhile_append_dropWhile (p := isDigit base) (l := afterInt)
      have hfrac : ∀ c ∈ afterInt.takeWhile (isDigit base), isDigit base c = true := isDigit_of_mem_takeWhile
      simp only [if_true]
      generalize afterInt.takeWhile (isDigit base) = frac at *
      rw [scan_firstPoint rfl, ← hafter, scan_digits hfrac] at hscan
      cases hend : afterInt.dropWhile (isDigit base) with
      | nil =>
        rw [hend, scan] at hscan
        exact tokenize_of_parts (by rw [htext, ← hbody, hrest, ← hafter, hend]; simp) hsign (.inr ⟨rfl, rfl⟩) hint hfrac
          (by rw [hscan]; simp [scanAfterSign])
      | cons c' later =>
        rw [hend, scan_stray (isDigit_of_dropWhile_eq_cons hend) (fun _ => rfl) (.inl (by simp [Scan.signTooLate]))]
          at hscan
        exact .inl ⟨_, rfl, tokenize_of_scan_error hscan⟩
    · rw [scan_stray hc (fun h => absurd h hpoint)] at hscan
      · simp only [if_neg hpoint]
        exact .inl ⟨_, rfl, by rw [tokenize_of_scan_error hscan, strayByte, if_neg hpoint]⟩
      · by_cases hempty : sign = [] ∧ int = []
        · obtain ⟨hnosign, hnoint⟩ := hempty
          exact .inr (hfirst hnosign c (by rw [← hbody, hrest, hnoint]; rfl))
        · exact .inl (by simpa [Scan.signTooLate, scanAfterSign, imp_iff_not_or, not_and_or] using hempty)

end Sys2Proof.Machine

/-! The stages of an operation, forward: on the spans the tokenizer leaves, the fraction and integer converters answer as plain
arithmetic on the literal's parts, and the assembler's OR is a sum (10_state.md R29 to R33; 44_assembler.md R190). -/

namespace Sys2Proof.Machine

@[simp] theorem operationOf_width (i : Instr) : (operationOf i).width = i.width := by cases i <;> rfl

@[simp] theorem operationOf_frac (i : Instr) : (operationOf i).frac = i.frac.toNat := by cases i <;> rfl

/-! ## Spans of the literal -/

theorem length_literalBytes (s : State) : (literalBytes s).length = s.len.toNat := by
  simp [literalBytes, textPrefix]

theorem literalBytes_getElem? {s : State} {a : Nat} (h : a < s.len.toNat) :
    (literalBytes s)[a]? = some (readText s a) := by
  simp [literalBytes, textPrefix, h]

/-- A span's bytes depend on LEN and TEXT only. -/
theorem SameRequest.readSpan {s t : State} (h : SameRequest s t) (lo hi : U16) : readSpan t lo hi = readSpan s lo hi := by
  have htext : readText t = readText s := funext h.text
  simp only [Machine.readSpan, h.len, htext]

/-- A piece of the literal is read by the span of its place in it. -/
theorem readSpan_of_literalBytes {s : State} {before bytes behind : List Byte}
    (h : literalBytes s = before ++ bytes ++ behind) :
    readSpan s (BitVec.ofNat 16 before.length) (BitVec.ofNat 16 (before.length + bytes.length)) = some bytes := by
  have hlen : s.len.toNat = before.length + bytes.length + behind.length := by
    rw [← length_literalBytes, h, List.length_append, List.length_append]
  have hbound := s.len.isLt
  have hlo : (BitVec.ofNat 16 before.length).toNat = before.length := by
    rw [BitVec.toNat_ofNat, Nat.mod_eq_of_lt (by omega)]
  have hhi : (BitVec.ofNat 16 (before.length + bytes.length)).toNat = before.length + bytes.length := by
    rw [BitVec.toNat_ofNat, Nat.mod_eq_of_lt (by omega)]
  rw [readSpan_eq_some, hlo, hhi]
  refine ⟨by omega, by omega, List.ext_getElem? fun n => ?_⟩
  rw [Nat.add_sub_cancel_left]
  by_cases hn : n < bytes.length
  · have hread := literalBytes_getElem? (s := s) (a := before.length + n) (by omega)
    rw [h, List.append_assoc, List.getElem?_append_right (by omega), List.getElem?_append_left (by omega),
      Nat.add_sub_cancel_left] at hread
    rw [hread]; simp [hn]
  · rw [List.getElem?_eq_none (by omega), List.getElem?_eq_none (by simp; omega)]

theorem readSpan_mem {s : State} {lo hi : U16} {bytes : List Byte} (h : readSpan s lo hi = some bytes) {a : Nat}
    (hlo : lo.toNat ≤ a) (hhi : a < hi.toNat) : readText s a ∈ bytes := by
  obtain ⟨-, -, rfl⟩ := readSpan_eq_some.mp h
  exact List.mem_map_of_mem (List.mem_range'_1.mpr ⟨hlo, by omega⟩)

/-- The fraction digits are the last bytes of the text. -/
theorem RecordSplits.frac_place {base : Base} {negOk : Bool} {text sign tail : List Byte} {r : LiteralRecord} {p : Parts}
    (h : RecordSplits base negOk text r p sign tail) :
    ∃ before, text = before ++ p.frac ++ [] ∧ r.fracLo = before.length ∧ r.fracHi = before.length + p.frac.length
      ∧ r.intHi ≤ r.fracLo := by
  have hhi := h.fracHi_eq
  have htext := h.text_eq
  have hint := h.intHi_eq
  rcases h.tail_cases with ⟨rfl, hfrac, hlo⟩ | ⟨rfl, hlo⟩
  · exact ⟨text, by simp [hfrac], hlo, by simp [hfrac, hhi], by simp [hlo, hint, htext]⟩
  · refine ⟨sign ++ p.int ++ [charPoint], by simp [htext], by simp [hlo, hint]; omega, ?_, by omega⟩
    rw [hhi, htext]; simp; omega

/-- The spans the tokenizer writes read the literal's parts. -/
theorem readSpan_setLiteral {base : Base} {negOk : Bool} {s : State} {sign tail : List Byte} {r : LiteralRecord}
    {p : Parts} (h : RecordSplits base negOk (literalBytes s) r p sign tail) :
    readSpan s (setLiteral r s).intLo (setLiteral r s).intHi = some p.int
      ∧ readSpan s (setLiteral r s).fracLo (setLiteral r s).fracHi = some p.frac := by
  obtain ⟨before, htext, hlo, hhi, -⟩ := h.frac_place
  rw [setLiteral_intLo, setLiteral_intHi, setLiteral_fracLo, setLiteral_fracHi, h.intLo_eq, h.intHi_eq, hlo, hhi]
  exact ⟨readSpan_of_literalBytes h.text_eq, readSpan_of_literalBytes htext⟩

/-! ## The converters and the assembler -/

/-- Phase FRACTION never stops on digits: its answer is the literal's fraction rounded half up, whichever converter the
base_selector_mux starts (R128, R146, R210). -/
theorem fractionStage_eq {op : Operation} {s : State} {bytes : List Byte} (hfrac : op.frac ≤ op.width.bits)
    (hspan : readSpan s s.fracLo s.fracHi = some bytes) (hdigits : ∀ c ∈ bytes, isDigit op.base c = true) :
    ∃ r, fractionStage op s = .next (setFraction r s)
      ∧ IsFractionOf r op.frac (fractionUnits op.base op.frac (bytes.map digitValue)) := by
  have hvalues := map_digitValue_lt_radix hdigits
  simp only [fractionStage, hspan]
  generalize bytes.map digitValue = digits at hvalues
  cases hbase : op.base with rw [hbase] at hvalues
  | b2 => exact ⟨_, rfl, exactFraction_isFractionOf (d := 1) hvalues⟩
  | b8 => exact ⟨_, rfl, exactFraction_isFractionOf (d := 3) hvalues⟩
  | b16 => exact ⟨_, rfl, exactFraction_isFractionOf (d := 4) hvalues⟩
  | b10 =>
    obtain ⟨r, hr, hround⟩ := decimalFraction_isFractionOf hfrac hvalues
    exact ⟨r, by simp only [Base.fractionSelect, hr], hround⟩

/-- Phase INTEGER on digits: the carried value shifted to the top F bits, or Overflow when it needs more than IB bits
(R178, R179). -/
theorem integerStage_eq {op : Operation} {s : State} {bytes : List Byte}
    (hspan : readSpan s s.intLo s.intHi = some bytes) (hdigits : ∀ c ∈ bytes, isDigit op.base c = true) :
    (2 ^ op.intBits ≤ spanValue op.base bytes + carryUnit s.carry
        ∧ integerStage op s = .next (raiseError .overflow s))
      ∨ (spanValue op.base bytes + carryUnit s.carry < 2 ^ op.intBits
        ∧ integerStage op s = .next
            (setIntField (BitVec.ofNat 128 ((spanValue op.base bytes + carryUnit s.carry) * 2 ^ op.frac)) s)) := by
  simp only [integerStage, hspan, integerConvert_eq hdigits]
  by_cases hover : 2 ^ op.intBits ≤ spanValue op.base bytes + carryUnit s.carry
  · exact .inl ⟨hover, by simp only [if_pos hover]⟩
  · exact .inr ⟨by omega, by simp only [if_neg hover]⟩

/-- Aligned at F, the integer field shares no bit with the fraction field: OR joins them as a sum (R190). -/
theorem joined_toNat {a b : U128} {f : Nat} (ha : 2 ^ f ∣ a.toNat) (hb : b.toNat < 2 ^ f) :
    (a ||| b).toNat = a.toNat + b.toNat := by
  obtain ⟨n, hn⟩ := ha
  rw [BitVec.toNat_or, hn, Nat.mul_comm, mul_two_pow_or_eq_add hb]

/-- The pattern of a W-bit magnitude lies within W bits (R191 to R193). -/
theorem applySign_lt {op : Operation} {neg : Bool} {mag out : U128} (hmag : mag.toNat < 2 ^ op.width.bits)
    (h : applySign op neg mag = some out) : out.toNat < 2 ^ op.width.bits := by
  unfold applySign at h
  split_ifs at h
  case pos =>
    obtain rfl := Option.some.inj h
    rw [BitVec.toNat_ofNat]
    exact (Nat.mod_le _ _).trans_lt (Nat.mod_lt _ (Nat.two_pow_pos _))
  all_goals obtain rfl := Option.some.inj h; exact hmag

/-! ## One stage by its phase, and the whole run -/

theorem runStage_of_tokenize {op : Operation} {s : State} (h : s.phase = .tokenize) :
    runStage op s = .next (tokenizeStage op s) := by simp only [runStage, h]

theorem runStage_of_fraction {op : Operation} {s : State} (h : s.phase = .fraction) :
    runStage op s = fractionStage op s := by simp only [runStage, h]

theorem runStage_of_integer {op : Operation} {s : State} (h : s.phase = .integer) :
    runStage op s = integerStage op s := by simp only [runStage, h]

theorem runStage_of_assemble {op : Operation} {s : State} (h : s.phase = .assemble) :
    runStage op s = .next (assembleStage op s) := by simp only [runStage, h]

theorem runStage_of_done {op : Operation} {s : State} (h : s.phase = .done) : runStage op s = .next s := by
  simp only [runStage, h]

@[simp] theorem runStage_raiseError (op : Operation) (e : ErrorKind) (s : State) :
    runStage op (raiseError e s) = .next (raiseError e s) := runStage_of_done rfl

/-- An operation from the beginning of TOKENIZE: the literal's error; or its parts in the span registers, its rounded fraction
in FRAC_FIELD and CARRY, and then Overflow of the integer or the assembler on the aligned integer field (R211). -/
theorem runToDone_of_tokenize {op : Operation} {s : State} (hphase : s.phase = .tokenize)
    (hfrac : op.frac ≤ op.width.bits) :
    (∃ e, splitLiteral op.base op.signed (literalBytes s) = .error e ∧ runToDone op s = .next (raiseError e s))
      ∨ ∃ p r sign tail fr, splitLiteral op.base op.signed (literalBytes s) = .ok p
        ∧ RecordSplits op.base op.signed (literalBytes s) r p sign tail
        ∧ IsFractionOf fr op.frac (fractionUnits op.base op.frac (p.frac.map digitValue))
        ∧ ((2 ^ op.intBits ≤ spanValue op.base p.int + carryUnit fr.carry
            ∧ runToDone op s = .next (raiseError .overflow (setFraction fr (setLiteral r s))))
          ∨ (spanValue op.base p.int + carryUnit fr.carry < 2 ^ op.intBits
            ∧ ∃ v : U128, v.toNat = (spanValue op.base p.int + carryUnit fr.carry) * 2 ^ op.frac
              ∧ runToDone op s
                  = .next (assembleStage op (setIntField v (setFraction fr (setLiteral r s)))))) := by
  rw [runToDone, runStage_of_tokenize hphase, tokenizeStage]
  rcases tokenize_follows_splitLiteral op.base op.signed (literalBytes s) with
    ⟨e, hsplit, htokens⟩ | ⟨p, r, sign, tail, hsplit, htokens, hrecord⟩
  · exact .inl ⟨e, hsplit, by simp [htokens]⟩
  · have hsame : SameRequest s (setLiteral r s) := ⟨rfl, rfl, fun _ => rfl, rfl, rfl, rfl, rfl, rfl⟩
    obtain ⟨hint, hfraction⟩ := readSpan_setLiteral hrecord
    rw [← hsame.readSpan] at hfraction
    obtain ⟨fr, hstage, hround⟩ := fractionStage_eq hfrac hfraction hrecord.frac_digits
    have hsame' : SameRequest s (setFraction fr (setLiteral r s)) := ⟨rfl, rfl, fun _ => rfl, rfl, rfl, rfl, rfl, rfl⟩
    rw [← hsame'.readSpan] at hint
    refine .inr ⟨p, r, sign, tail, fr, hsplit, hrecord, hround, ?_⟩
    simp only [htokens, andThen_next, runStage_of_fraction (setLiteral_phase s r), hstage,
      runStage_of_integer (setFraction_phase _ fr)]
    refine (integerStage_eq (s := setFraction fr (setLiteral r s)) hint hrecord.int_digits).imp ?_ ?_
    · rintro ⟨hover, hinteger⟩
      exact ⟨hover, by simp [hinteger]⟩
    · rintro ⟨hfits, hinteger⟩
      refine ⟨hfits, _, (integer_field_fits hfrac hfits).2, ?_⟩
      simp only [hinteger, andThen_next, runStage_of_assemble (setIntField_phase _ _), setFraction_carry]

/-- Settles O44: only the run through all four stages ends in OK, and its registers are read off their writes. -/
theorem stageRegistersOfAnOkParse : Obligations.StageRegistersOfAnOkParse := by
  intro i s t habout hexec hok
  have hfrac : (operationOf i).frac ≤ (operationOf i).width.bits := by simpa using habout.frac_legal
  rw [exec_legal (by rw [habout.phase]; rfl) habout.frac_legal habout.len_legal] at hexec
  rcases runToDone_of_tokenize habout.phase hfrac with
    ⟨e, -, hrun⟩ | ⟨p, r, sign, tail, fr, hsplit, hrecord, hround, ⟨-, hrun⟩ | ⟨-, v, hv, hrun⟩⟩ <;>
    obtain rfl : _ = t := Host.Outcome.next.inj (hrun.symm.trans hexec)
  · cases hok
  · cases hok
  · rcases assembleStage_cases (operationOf i) (setIntField v (setFraction fr (setLiteral r s))) with
      ⟨out, -, ht⟩ | ⟨-, ht⟩ <;> rw [ht] at hok ⊢
    · obtain ⟨hcarry, hfield, hunits⟩ := hround.registers (hfrac.trans (width_bits_le_128 _))
      have hspans := readSpan_setLiteral hrecord
      have hjoined := joined_toNat (a := v) (by rw [hv]; exact Nat.dvd_mul_left _ _) hfield
      have hmagnitude : v.toNat + fr.field.toNat = flatMagnitude (operationOf i) p := by
        rw [hv, Nat.add_mul, Nat.add_assoc, hunits]; rfl
      rw [operationOf_frac] at hv hfield
      exact ⟨p, hsplit, hrecord.neg_eq, hspans.1, hspans.2, hcarry, hfield, hv, rfl, hjoined, hjoined.trans hmagnitude⟩
    · cases hok

end Sys2Proof.Machine

/-! Ports, phases and the resting block (10_state.md R24, R25, R28; 45_operations.md R221). What every stage keeps or raises,
every run of stages does: the two induction lemmas say so once. -/

namespace Sys2Proof.Machine

theorem Phase.isBusy_iff_code (p : Phase) :
    p.isBusy = true ↔ p.code = 1 ∨ p.code = 2 ∨ p.code = 3 ∨ p.code = 4 := by cases p <;> decide

theorem Phase.eq_done_iff_code (p : Phase) : p = .done ↔ p.code = 5 := by cases p <;> decide

/-- Settles O8. -/
theorem outputsFollowTheRegisters : Obligations.OutputsFollowTheRegisters := fun s =>
  ⟨s.phase.isBusy_iff_code, decide_eq_true_iff.trans s.phase.eq_done_iff_code, rfl, rfl, fun _ => rfl⟩

theorem writePort_of_not_twEn {p : PortIn} (h : p.twEn = false) (s : State) : writePort p s = s := by
  rcases writePort_cases p s with ⟨htrue, -⟩ | ⟨-, hsame⟩
  · simp [h] at htrue
  · exact hsame

/-- Settles O15: of the four kinds of edge only the rest is left, and its write port does nothing. -/
theorem restingBlockHoldsItsState : Obligations.RestingBlockHoldsItsState := by
  intro s p rest hinputs hrest hrst hstart hwrite
  have hinput : currentInput s = p := by rw [currentInput, hinputs]; rfl
  have hnext : nextEdge s = { s with inputs := rest, tick := s.tick + 1 } := by rw [nextEdge, hinputs]; rfl
  rcases clockEdge_cases s with ⟨h, -⟩ | ⟨-, h, -⟩ | ⟨-, -, h, -⟩ | ⟨-, -, -, hedge⟩
  · simp [hinput, hrst] at h
  · simp [hrest] at h
  · simp [hinput, hstart] at h
  · rw [step, hedge, hinput, writePort_of_not_twEn hwrite, hnext]

/-! ## Runs of stages -/

/-- What every stage keeps, short of entering DONE, the stages of an edge inside a transaction keep: they never enter it. -/
theorem advance_induction {op : Operation} {P : State → Prop}
    (hstage : ∀ s t, P s → runStage op s = .next t → t.phase ≠ .done → P t) {n : Nat} {s t : State} (hs : P s)
    (h : advance op n s = .next t) : P t := by
  induction n generalizing s with
  | zero => exact Host.Outcome.next.inj h ▸ hs
  | succ n ih =>
    rw [advance] at h
    cases hrun : runStage op s with
    | next u =>
      simp only [hrun] at h
      split at h
      case isTrue => exact Host.Outcome.next.inj h ▸ hs
      case isFalse hopen => exact ih (hstage s u hs hrun hopen) h
    | fault r => simp [hrun] at h
    | refused r => simp [hrun] at h

theorem runToDone_eq_next {op : Operation} {s t : State} : runToDone op s = .next t ↔
    ∃ u v w, runStage op s = .next u ∧ runStage op u = .next v ∧ runStage op v = .next w
      ∧ runStage op w = .next t := by
  simp only [runToDone, andThen_eq_next]
  constructor
  · rintro ⟨w, ⟨v, ⟨u, hu, hv⟩, hw⟩, ht⟩; exact ⟨u, v, w, hu, hv, hw, ht⟩
  · rintro ⟨u, v, w, hu, hv, hw, ht⟩; exact ⟨w, ⟨v, ⟨u, hu, hv⟩, hw⟩, ht⟩

/-- What every stage keeps, the run to DONE keeps. -/
theorem runToDone_induction {op : Operation} {P : State → Prop} (hstage : ∀ s t, P s → runStage op s = .next t → P t)
    {s t : State} (hs : P s) (h : runToDone op s = .next t) : P t := by
  obtain ⟨u, v, w, hu, hv, hw, ht⟩ := runToDone_eq_next.mp h
  exact hstage _ _ (hstage _ _ (hstage _ _ (hstage _ _ hs hu) hv) hw) ht

theorem advance_sameRequest {op : Operation} {n : Nat} {s t : State} (h : advance op n s = .next t) : SameRequest s t :=
  advance_induction (P := SameRequest s) (fun _ _ hs hrun _ => hs.trans (runStage_sameRequest hrun)) (.refl s) h

theorem runToDone_sameRequest {op : Operation} {s t : State} (h : runToDone op s = .next t) : SameRequest s t :=
  runToDone_induction (P := SameRequest s) (fun _ _ hs hrun => hs.trans (runStage_sameRequest hrun)) (.refl s) h

/-! ## The sequencer -/

theorem Phase.isBusy_iff (p : Phase) : p.isBusy = true ↔ p ≠ .idle ∧ p ≠ .done := by cases p <;> decide

theorem Phase.code_le_done (p : Phase) : p.code.toNat ≤ Phase.done.code.toNat := by cases p <;> decide

theorem Phase.ne_idle_iff (p : Phase) : p ≠ .idle ↔ 1 ≤ p.code.toNat := by cases p <;> decide

theorem Phase.eq_done_of_code {p : Phase} (h : 5 ≤ p.code.toNat) : p = .done := by
  revert h; cases p <;> decide

/-- Inside a transaction a stage moves the sequencer on, and DONE is the end (R25). -/
theorem runStage_code {op : Operation} {s t : State} (hs : s.phase ≠ .idle) (h : runStage op s = .next t) :
    min 5 (s.phase.code.toNat + 1) ≤ t.phase.code.toNat := by
  rcases runStage_phase h with ⟨hp, -⟩ | ⟨hp, ht | ht⟩ | ⟨hp, ht⟩ | ⟨hp, ht | ht⟩ | ⟨hp, ht⟩ | ⟨hp, ht⟩
  · exact absurd hp hs
  all_goals simp [hp, ht, Phase.code]

/-- A phase is not before another one, and no transaction is back in IDLE. -/
def NotBefore (p : Phase) (s : State) : Prop := p.code.toNat ≤ s.phase.code.toNat ∧ s.phase ≠ .idle

theorem runStage_notBefore {op : Operation} {p : Phase} {s t : State} (hs : NotBefore p s)
    (h : runStage op s = .next t) : NotBefore p t := by
  obtain ⟨hle, hidle⟩ := hs
  have hcode := runStage_code hidle h
  have hp : p.code.toNat ≤ 5 := p.code_le_done
  exact ⟨by omega, t.phase.ne_idle_iff.mpr (by omega)⟩

/-- The four stages of the longest run lead every busy phase to DONE. -/
theorem runToDone_phase {op : Operation} {s t : State} (hs : s.phase ≠ .idle) (h : runToDone op s = .next t) :
    t.phase = .done := by
  obtain ⟨u, v, w, hu, hv, hw, ht⟩ := runToDone_eq_next.mp h
  have hstart := s.phase.ne_idle_iff.mp hs
  have hcu := runStage_code hs hu
  have hcv := runStage_code (u.phase.ne_idle_iff.mpr (by omega)) hv
  have hcw := runStage_code (v.phase.ne_idle_iff.mpr (by omega)) hw
  have hct := runStage_code (w.phase.ne_idle_iff.mpr (by omega)) ht
  exact Phase.eq_done_of_code (by omega)

theorem advance_busy {op : Operation} {n : Nat} {s t : State} (hs : s.phase.isBusy = true)
    (h : advance op n s = .next t) : t.phase.isBusy = true := by
  refine advance_induction (P := fun s => s.phase.isBusy = true) (fun s t hs hrun hopen => ?_) hs h
  have hcode := runStage_code (s.phase.isBusy_iff.mp hs).1 hrun
  exact t.phase.isBusy_iff.mpr ⟨t.phase.ne_idle_iff.mpr (by omega), hopen⟩

/-! ## An edge of a running transaction -/

theorem exec_eq_runOperation (i : Instr) (s : State) : exec i s = runOperation (operationOf i) s := by cases i <;> rfl

/-- What an edge of a running transaction can be: an illegal descriptor's or length's ConfigInvalid, the run to DONE at the
last edge of LATENCY, or some stages at an earlier one (R221 step 5). -/
theorem busyEdge_cases {s t : State} (hbusy : s.phase.isBusy = true) (h : busyEdge s = .next t) :
    (∃ why, decode s.cmd = .illegal why ∧ t = raiseError .configInvalid (setBusyLeft 0 s))
      ∨ ∃ i, decode s.cmd = .instr i
        ∧ ((operationLegal (operationOf i) s.len = false ∧ ∃ n, t = raiseError .configInvalid (setBusyLeft n s))
          ∨ (operationLegal (operationOf i) s.len = true ∧ s.busyLeft ≤ 1
            ∧ runToDone (operationOf i) (setBusyLeft 0 s) = .next t)
          ∨ (operationLegal (operationOf i) s.len = true ∧ 2 ≤ s.busyLeft
            ∧ advance (operationOf i) (Config.stagesAtEdge s.tick) (setBusyLeft (s.busyLeft - 1) s) = .next t)) := by
  rw [busyEdge] at h
  cases hdecode : decode s.cmd with
  | illegal why =>
    simp only [hdecode] at h
    exact .inl ⟨why, rfl, (Host.Outcome.next.inj h).symm⟩
  | instr i =>
    refine .inr ⟨i, rfl, ?_⟩
    simp only [hdecode, exec_eq_runOperation, runOperation, holdEdge, setBusyLeft_phase, setBusyLeft_len,
      setBusyLeft_tick, hbusy, Bool.true_eq_false, if_false] at h
    by_cases hlegal : operationLegal (operationOf i) s.len = true
    · simp only [hlegal, if_true] at h
      split at h
      case isTrue hlast => exact .inr (.inl ⟨hlegal, hlast, h⟩)
      case isFalse hearlier => exact .inr (.inr ⟨hlegal, by omega, h⟩)
    · simp only [hlegal] at h
      refine .inl ⟨Bool.eq_false_of_not_eq_true hlegal, ?_⟩
      split at h <;> exact ⟨_, (Host.Outcome.next.inj h).symm⟩

/-- Settles O17. -/
theorem phaseNeverMovesBackwards : Obligations.PhaseNeverMovesBackwards := by
  intro s t hbusy hreset h
  have hedge : busyEdge (nextEdge s) = .next t := by
    rcases clockEdge_cases s with ⟨htrue, -⟩ | ⟨-, -, hedge⟩ | ⟨-, hidle, -⟩ | ⟨-, hidle, -⟩
    · simp [hreset] at htrue
    · exact hedge.symm.trans h
    · simp [hbusy] at hidle
    · simp [hbusy] at hidle
  have hstart : ∀ n, NotBefore s.phase (setBusyLeft n (nextEdge s)) := fun n =>
    ⟨Nat.le_refl _, (s.phase.isBusy_iff.mp hbusy).1⟩
  have herror : ∀ n, NotBefore s.phase (raiseError .configInvalid (setBusyLeft n (nextEdge s))) := fun n =>
    ⟨s.phase.code_le_done, nofun⟩
  rcases busyEdge_cases (s := nextEdge s) hbusy hedge with
    ⟨why, -, rfl⟩ | ⟨i, -, ⟨-, n, rfl⟩ | ⟨-, -, hrun⟩ | ⟨-, -, hadvance⟩⟩
  · exact herror 0
  · exact herror n
  · exact runToDone_induction (fun _ _ => runStage_notBefore) (hstart 0) hrun
  · exact advance_induction (fun _ _ hs hrun _ => runStage_notBefore hs hrun) (hstart _) hadvance

end Sys2Proof.Machine

/-! The invariant (10_state.md R27 to R32; 20_memory.md R54; 30_encoding.md R85; 70_reset_and_hazards.md R277). Inside a
transaction its part without TEXT and the countdown holds from stage to stage; every other edge ends with no transaction
running or at the beginning of one, where only the outputs and CARRY are left to say. -/

namespace Sys2Proof.Machine

/-! ## A legal descriptor -/

theorem selectInstr_width (signed : Bool) (base : BitVec 2) (w : Width) (f : BitVec 8) :
    (selectInstr signed base w f).width = w := by
  unfold selectInstr; split <;> rfl

theorem selectInstr_frac (signed : Bool) (base : BitVec 2) (w : Width) (f : BitVec 8) :
    (selectInstr signed base w f).frac = f := by
  unfold selectInstr; split <;> rfl

/-- A descriptor decodes only to a layout with F at most W (R74). -/
theorem frac_le_of_decode {cmd : U16} {i : Instr} (h : decode cmd = .instr i) : i.frac.toNat ≤ i.width.bits := by
  unfold decode at h
  split at h
  case isTrue => cases h
  case isFalse =>
    split at h
    case h_1 => cases h
    case h_2 w hw =>
      split at h
      case isTrue hfits =>
        obtain rfl := Decoded.instr.inj h
        rwa [selectInstr_width, selectInstr_frac]
      case isFalse => cases h

theorem len_le_of_cmdLegal {cmd len : U16} (h : cmdLegal cmd len = true) : len.toNat ≤ Config.textMaxLen := by
  rw [cmdLegal, decide_eq_true_iff] at h
  exact h.2.2.2

theorem operationLegal_of_cmdLegal {cmd len : U16} {i : Instr} (hdecode : decode cmd = .instr i)
    (h : cmdLegal cmd len = true) : operationLegal (operationOf i) len = true := by
  rw [operationLegal, decide_eq_true_iff, operationOf_frac, operationOf_width]
  exact ⟨frac_le_of_decode hdecode, len_le_of_cmdLegal h⟩

/-! ## The spans -/

/-- The spans hold of every state with the same span registers, NEG, LEN and TEXT. -/
theorem SpansHold.of_eq {op : Operation} {s t : State} (h : SpansHold op s) (htext : ∀ a, readText t a = readText s a)
    (hlen : t.len = s.len) (hneg : t.neg = s.neg)
    (hspans : t.intLo = s.intLo ∧ t.intHi = s.intHi ∧ t.fracLo = s.fracLo ∧ t.fracHi = s.fracHi) : SpansHold op t := by
  obtain ⟨hintLo, hintHi, hfracLo, hfracHi⟩ := hspans
  obtain ⟨h1, h2, h3, h4, h5, h6, h7⟩ := h
  constructor <;> simp only [htext, hlen, hneg, hintLo, hintHi, hfracLo, hfracHi] <;> assumption

/-- The tokenizer leaves the spans of the running request (40_tokenizer.md R109, R110). -/
theorem spansHold_setLiteral {op : Operation} {s : State} {sign tail : List Byte} {r : LiteralRecord} {p : Parts}
    (h : RecordSplits op.base op.signed (literalBytes s) r p sign tail) : SpansHold op (setLiteral r s) := by
  obtain ⟨hint, hfrac⟩ := readSpan_setLiteral h
  obtain ⟨hintOrdered, -, -⟩ := readSpan_eq_some.mp hint
  obtain ⟨hfracOrdered, -, -⟩ := readSpan_eq_some.mp hfrac
  obtain ⟨before, -, hlo, hhi, hbefore⟩ := h.frac_place
  have hlen := h.fracHi_eq
  rw [length_literalBytes] at hlen
  have hbound := s.len.isLt
  refine
    { int_ordered := hintOrdered
      int_before_frac := ?_
      frac_ordered := hfracOrdered
      frac_ends_at_len := ?_
      int_digits := fun a hlo hhi => h.int_digits _ (readSpan_mem hint hlo hhi)
      frac_digits := fun a hlo hhi => h.frac_digits _ (readSpan_mem hfrac hlo hhi)
      unsigned_has_no_sign := ?_ }
  · rw [setLiteral_intHi, setLiteral_fracLo, BitVec.toNat_ofNat, BitVec.toNat_ofNat, Nat.mod_eq_of_lt (by omega),
      Nat.mod_eq_of_lt (by omega)]
    exact hbefore
  · rw [setLiteral_fracHi, setLiteral_len, hlen, BitVec.ofNat_toNat, BitVec.setWidth_eq]
  · intro hunsigned
    rw [setLiteral_neg, h.neg_eq]
    rcases h.sign_cases with ⟨-, hneg⟩ | ⟨-, hneg⟩ | ⟨-, hsigned, -⟩
    · exact hneg
    · exact hneg
    · simp [hunsigned] at hsigned

/-- Spans that hold can be read, and hold digits. -/
theorem SpansHold.readSpan_int {op : Operation} {s : State} (h : SpansHold op s) :
    ∃ bytes, readSpan s s.intLo s.intHi = some bytes ∧ ∀ c ∈ bytes, isDigit op.base c = true := by
  have hfrac := h.int_before_frac.trans h.frac_ordered
  rw [h.frac_ends_at_len] at hfrac
  refine ⟨_, readSpan_eq_some.mpr ⟨h.int_ordered, hfrac, rfl⟩, List.forall_mem_map.mpr fun a ha => ?_⟩
  obtain ⟨hlo, hhi⟩ := List.mem_range'_1.mp ha
  exact h.int_digits a hlo (by have := h.int_ordered; omega)

theorem SpansHold.readSpan_frac {op : Operation} {s : State} (h : SpansHold op s) :
    ∃ bytes, readSpan s s.fracLo s.fracHi = some bytes ∧ ∀ c ∈ bytes, isDigit op.base c = true := by
  have hend : s.fracHi.toNat ≤ s.len.toNat := by rw [h.frac_ends_at_len]
  refine ⟨_, readSpan_eq_some.mpr ⟨h.frac_ordered, hend, rfl⟩, List.forall_mem_map.mpr fun a ha => ?_⟩
  obtain ⟨hlo, hhi⟩ := List.mem_range'_1.mp ha
  exact h.frac_digits a hlo (by have := h.frac_ordered; omega)

/-! ## From stage to stage -/

/-- What holds of the registers at every stage of a transaction of the operation `i`, its end in DONE included: the clauses of
`Inv` that speak of neither TEXT nor the countdown. -/
structure StageInv (i : Instr) (s : State) : Prop where
  decodes : decode s.cmd = .instr i
  legal : cmdLegal s.cmd s.len = true
  clear_until_done : s.phase ≠ .done → s.status = .ok ∧ s.result = 0
  error_has_no_result : s.status ≠ .ok → s.result = 0
  result_fits : s.phase = .done → s.status = .ok → s.result.toNat < 2 ^ i.width.bits
  carry_clears_field : s.carry = true → s.fracField = 0
  spans : s.phase.afterTokenize = true → SpansHold (operationOf i) s
  frac_fits : s.phase.afterFraction = true → s.fracField.toNat < 2 ^ i.frac.toNat
  int_fits : s.phase = .assemble → 2 ^ i.frac.toNat ∣ s.intField.toNat ∧ s.intField.toNat < 2 ^ i.width.bits

section Preservation

variable {i : Instr} {s t : State}

theorem StageInv.raiseError (h : StageInv i s) (e : ErrorKind) : StageInv i (raiseError e s) :=
  { decodes := h.decodes
    legal := h.legal
    clear_until_done := fun hopen => absurd rfl hopen
    error_has_no_result := fun _ => rfl
    result_fits := nofun
    carry_clears_field := h.carry_clears_field
    spans := nofun
    frac_fits := nofun
    int_fits := nofun }

theorem StageInv.tokenizeStage (h : StageInv i s) (hphase : s.phase = .tokenize) :
    StageInv i (tokenizeStage (operationOf i) s) := by
  have hclear := h.clear_until_done (by rw [hphase]; decide)
  rw [Machine.tokenizeStage]
  rcases tokenize_follows_splitLiteral (operationOf i).base (operationOf i).signed (literalBytes s) with
    ⟨e, -, htokens⟩ | ⟨p, r, sign, tail, -, htokens, hrecord⟩ <;> rw [htokens]
  · exact h.raiseError e
  · exact
      { decodes := h.decodes
        legal := h.legal
        clear_until_done := fun _ => hclear
        error_has_no_result := fun _ => hclear.2
        result_fits := nofun
        carry_clears_field := h.carry_clears_field
        spans := fun _ => spansHold_setLiteral hrecord
        frac_fits := nofun
        int_fits := nofun }

theorem StageInv.fractionStage (h : StageInv i s) (hphase : s.phase = .fraction)
    (hrun : fractionStage (operationOf i) s = .next t) : StageInv i t := by
  have hclear := h.clear_until_done (by rw [hphase]; decide)
  have hspans := h.spans (by rw [hphase]; rfl)
  have hfrac : (operationOf i).frac ≤ (operationOf i).width.bits := by simpa using frac_le_of_decode h.decodes
  obtain ⟨bytes, hread, hdigits⟩ := hspans.readSpan_frac
  obtain ⟨r, hstage, hround⟩ := fractionStage_eq hfrac hread hdigits
  obtain ⟨hcarry, hfield, -⟩ := hround.registers (hfrac.trans (width_bits_le_128 _))
  obtain rfl := Host.Outcome.next.inj (hstage.symm.trans hrun)
  exact
    { decodes := h.decodes
      legal := h.legal
      clear_until_done := fun _ => hclear
      error_has_no_result := fun _ => hclear.2
      result_fits := nofun
      carry_clears_field := hcarry
      spans := fun _ => hspans.of_eq (fun _ => rfl) rfl rfl ⟨rfl, rfl, rfl, rfl⟩
      frac_fits := fun _ => by rwa [operationOf_frac] at hfield
      int_fits := nofun }

theorem StageInv.integerStage (h : StageInv i s) (hphase : s.phase = .integer)
    (hrun : integerStage (operationOf i) s = .next t) : StageInv i t := by
  have hclear := h.clear_until_done (by rw [hphase]; decide)
  have hspans := h.spans (by rw [hphase]; rfl)
  have hfrac : (operationOf i).frac ≤ (operationOf i).width.bits := by simpa using frac_le_of_decode h.decodes
  obtain ⟨bytes, hread, hdigits⟩ := hspans.readSpan_int
  rcases integerStage_eq hread hdigits with ⟨-, hstage⟩ | ⟨hfits, hstage⟩ <;>
    obtain rfl := Host.Outcome.next.inj (hstage.symm.trans hrun)
  · exact h.raiseError .overflow
  · obtain ⟨hlt, hnat⟩ := integer_field_fits hfrac hfits
    exact
      { decodes := h.decodes
        legal := h.legal
        clear_until_done := fun _ => hclear
        error_has_no_result := fun _ => hclear.2
        result_fits := nofun
        carry_clears_field := h.carry_clears_field
        spans := fun _ => hspans.of_eq (fun _ => rfl) rfl rfl ⟨rfl, rfl, rfl, rfl⟩
        frac_fits := fun _ => h.frac_fits (by rw [hphase]; rfl)
        int_fits := fun _ => by
          rw [setIntField_intField, hnat, ← operationOf_frac, ← operationOf_width]
          exact ⟨Nat.dvd_mul_left _ _, hlt⟩ }

theorem StageInv.assembleStage (h : StageInv i s) (hphase : s.phase = .assemble) :
    StageInv i (assembleStage (operationOf i) s) := by
  obtain ⟨-, hint⟩ := h.int_fits hphase
  have hfield := h.frac_fits (by rw [hphase]; rfl)
  have hjoined : (s.intField ||| s.fracField).toNat < 2 ^ (operationOf i).width.bits := by
    rw [operationOf_width, BitVec.toNat_or]
    exact Nat.or_lt_two_pow hint (hfield.trans_le (Nat.pow_le_pow_right (by decide) (frac_le_of_decode h.decodes)))
  have hmag : StageInv i (setMag (s.intField ||| s.fracField) s) :=
    { h with spans := fun hafter => (h.spans hafter).of_eq (fun _ => rfl) rfl rfl ⟨rfl, rfl, rfl, rfl⟩ }
  rcases assembleStage_cases (operationOf i) s with ⟨out, hout, he⟩ | ⟨-, he⟩ <;> rw [he]
  · exact
      { decodes := h.decodes
        legal := h.legal
        clear_until_done := fun hopen => absurd rfl hopen
        error_has_no_result := fun hnot => absurd rfl hnot
        result_fits := fun _ _ => operationOf_width i ▸ applySign_lt hjoined hout
        carry_clears_field := h.carry_clears_field
        spans := nofun
        frac_fits := nofun
        int_fits := nofun }
  · exact hmag.raiseError .overflow

theorem StageInv.runStage (h : StageInv i s) (hrun : runStage (operationOf i) s = .next t) : StageInv i t := by
  cases hphase : s.phase with
  | idle => rw [Machine.runStage, hphase] at hrun; exact Host.Outcome.next.inj hrun ▸ h
  | tokenize => rw [runStage_of_tokenize hphase] at hrun; exact Host.Outcome.next.inj hrun ▸ h.tokenizeStage hphase
  | fraction => rw [runStage_of_fraction hphase] at hrun; exact h.fractionStage hphase hrun
  | integer => rw [runStage_of_integer hphase] at hrun; exact h.integerStage hphase hrun
  | assemble => rw [runStage_of_assemble hphase] at hrun; exact Host.Outcome.next.inj hrun ▸ h.assembleStage hphase
  | done => rw [runStage_of_done hphase] at hrun; exact Host.Outcome.next.inj hrun ▸ h

/-! ## From edge to edge -/

theorem writePort_phase (p : PortIn) (s : State) : (writePort p s).phase = s.phase := by
  rcases writePort_cases p s with ⟨-, -, -, he⟩ | ⟨-, he⟩ <;> rw [he]
  rfl

/-- At a busy edge the running transaction's registers stand as its stages need them. -/
theorem Inv.stageInv (h : Inv s) (hbusy : s.phase.isBusy = true) (hdecode : decode s.cmd = .instr i) (n : Nat) :
    StageInv i (setBusyLeft n (nextEdge s)) :=
  { decodes := hdecode
    legal := h.busy_legal hbusy
    clear_until_done := h.clear_until_done
    error_has_no_result := h.error_has_no_result
    result_fits := fun hdone => absurd hdone (s.phase.isBusy_iff.mp hbusy).2
    carry_clears_field := h.carry_clears_field
    spans := fun hafter => (h.spans hafter i hdecode).of_eq (fun _ => rfl) rfl rfl ⟨rfl, rfl, rfl, rfl⟩
    frac_fits := fun hafter => h.frac_fits hafter i hdecode
    int_fits := fun hassemble => h.int_fits hassemble i hdecode }

/-- What the stages leave is the invariant again, with TEXT in form and the countdown right. -/
theorem StageInv.inv (h : StageInv i s) (hwf : Memory.wf s.text = true)
    (hinside : ∀ cell ∈ s.text, cell.1 < Config.textMaxLen) (hcounted : s.phase.isBusy = true ↔ 1 ≤ s.busyLeft) :
    Inv s := by
  have hsame : ∀ j, decode s.cmd = .instr j → i = j := fun j hj => Decoded.instr.inj (h.decodes.symm.trans hj)
  exact
    { text_wf := hwf
      text_inside := hinside
      busy_legal := fun _ => h.legal
      busy_counted := hcounted
      clear_until_done := h.clear_until_done
      error_has_no_result := h.error_has_no_result
      result_fits := fun hdone hok => ⟨i, h.decodes, h.result_fits hdone hok⟩
      carry_clears_field := h.carry_clears_field
      spans := fun hafter j hj => hsame j hj ▸ h.spans hafter
      frac_fits := fun hafter j hj => hsame j hj ▸ h.frac_fits hafter
      int_fits := fun hassemble j hj => hsame j hj ▸ h.int_fits hassemble }

theorem Phase.isBusy_of_afterTokenize {p : Phase} (h : p.afterTokenize = true) : p.isBusy = true := by
  revert h; cases p <;> decide

theorem Phase.isBusy_of_afterFraction {p : Phase} (h : p.afterFraction = true) : p.isBusy = true := by
  revert h; cases p <;> decide

/-- With no transaction running the stage registers are free, but for CARRY against FRAC_FIELD. -/
theorem inv_of_rest (hrest : s.phase.isBusy = false) (hleft : s.busyLeft = 0) (hwf : Memory.wf s.text = true)
    (hinside : ∀ cell ∈ s.text, cell.1 < Config.textMaxLen)
    (hclear : s.phase ≠ .done → s.status = .ok ∧ s.result = 0) (herror : s.status ≠ .ok → s.result = 0)
    (hresult : s.phase = .done → s.status = .ok → ∃ i, decode s.cmd = .instr i ∧ s.result.toNat < 2 ^ i.width.bits)
    (hcarry : s.carry = true → s.fracField = 0) : Inv s := by
  have hnot : s.phase.isBusy ≠ true := by simp [hrest]
  exact
    { text_wf := hwf
      text_inside := hinside
      busy_legal := fun hbusy => absurd hbusy hnot
      busy_counted := by simp [hrest, hleft]
      clear_until_done := hclear
      error_has_no_result := herror
      result_fits := hresult
      carry_clears_field := hcarry
      spans := fun hafter => absurd (Phase.isBusy_of_afterTokenize hafter) hnot
      frac_fits := fun hafter => absurd (Phase.isBusy_of_afterFraction hafter) hnot
      int_fits := fun hassemble => absurd (by rw [hassemble]; rfl) hnot }

theorem Inv.resetRegisters (h : Inv s) : Inv (resetRegisters (nextEdge s)) :=
  inv_of_rest rfl rfl h.text_wf h.text_inside (fun _ => ⟨rfl, rfl⟩) (fun _ => rfl) nofun nofun

theorem Inv.busyLeft_of_rest (h : Inv s) (hrest : s.phase.isBusy = false) : s.busyLeft = 0 := by
  have hcounted := h.busy_counted
  rw [hrest] at hcounted
  simpa using hcounted

/-- An edge of a running transaction (R221 step 5): a stage that is not to enter DONE leaves the countdown running, and the
run to DONE ends it. -/
theorem Inv.busyEdge (h : Inv s) (hbusy : s.phase.isBusy = true) (hedge : busyEdge (nextEdge s) = .next t) : Inv t := by
  rcases busyEdge_cases (s := nextEdge s) hbusy hedge with
    ⟨why, -, rfl⟩ | ⟨i, hdecode, ⟨hillegal, -⟩ | ⟨-, -, hrun⟩ | ⟨-, hleft, hadvance⟩⟩
  · exact inv_of_rest rfl rfl h.text_wf h.text_inside (fun hopen => absurd rfl hopen) (fun _ => rfl) nofun
      h.carry_clears_field
  · have hlegal := operationLegal_of_cmdLegal hdecode (h.busy_legal hbusy)
    exact absurd (hlegal.symm.trans hillegal) (by decide)
  · have hsame := runToDone_sameRequest hrun
    have hdone := runToDone_phase (s := setBusyLeft 0 (nextEdge s)) (s.phase.isBusy_iff.mp hbusy).1 hrun
    have hstage := runToDone_induction (fun _ _ hs hstep => hs.runStage hstep) (h.stageInv hbusy hdecode 0) hrun
    refine hstage.inv (hsame.cells ▸ h.text_wf) (hsame.cells ▸ h.text_inside) ?_
    rw [hdone, hsame.busyLeft, setBusyLeft_busyLeft]
    decide
  · have hsame := advance_sameRequest hadvance
    have hopen := advance_busy (s := setBusyLeft _ (nextEdge s)) hbusy hadvance
    have hstage := advance_induction (fun _ _ hs hstep _ => hs.runStage hstep) (h.stageInv hbusy hdecode _) hadvance
    refine hstage.inv (hsame.cells ▸ h.text_wf) (hsame.cells ▸ h.text_inside) ?_
    rw [hsame.busyLeft]
    simp only [hopen, setBusyLeft_busyLeft, nextEdge_busyLeft, true_iff] at hleft ⊢
    omega

/-- The write port at rest keeps the invariant: it writes one cell inside TEXT, in its place, or nothing (20_memory.md
R51). -/
theorem Inv.writePort (h : Inv s) (hrest : s.phase.isBusy = false) (p : PortIn) : Inv (writePort p (nextEdge s)) := by
  have hleft := h.busyLeft_of_rest hrest
  rcases writePort_cases p (nextEdge s) with ⟨-, -, hindex, he⟩ | ⟨-, he⟩ <;> rw [he]
  · refine inv_of_rest hrest hleft (Memory.store_wf _ h.text_wf _ _) (fun cell hcell => ?_) h.clear_until_done
      h.error_has_no_result h.result_fits h.carry_clears_field
    rcases Memory.store_mem _ _ _ cell hcell with rfl | hold
    · exact hindex
    · exact h.text_inside cell hold
  · exact inv_of_rest hrest hleft h.text_wf h.text_inside h.clear_until_done h.error_has_no_result h.result_fits
      h.carry_clears_field

/-- An accepted start keeps the invariant: a legal request begins with clear outputs and edges to come, an illegal one is in
DONE with an error (R221 step 3). -/
theorem Inv.acceptStart (h : Inv s) (hrest : s.phase.isBusy = false) (p : PortIn) : Inv (acceptStart p s) := by
  rcases acceptStart_cases p s with ⟨hlegal, he⟩ | ⟨-, he⟩ <;> rw [he]
  · exact
      { text_wf := h.text_wf
        text_inside := h.text_inside
        busy_legal := fun _ => hlegal
        busy_counted := ⟨fun _ => latency_pos _ _ _, fun _ => rfl⟩
        clear_until_done := fun _ => ⟨rfl, rfl⟩
        error_has_no_result := fun _ => rfl
        result_fits := nofun
        carry_clears_field := h.carry_clears_field
        spans := nofun
        frac_fits := nofun
        int_fits := nofun }
  · exact inv_of_rest rfl (h.busyLeft_of_rest hrest) h.text_wf h.text_inside (fun hopen => absurd rfl hopen)
      (fun _ => rfl) nofun h.carry_clears_field

end Preservation

/-- Settles O48. -/
theorem resetStateSatisfiesTheInvariant : Obligations.ResetStateSatisfiesTheInvariant :=
  inv_of_rest rfl rfl rfl nofun (fun _ => ⟨rfl, rfl⟩) (fun _ => rfl) nofun nofun

/-- Settles O49, by the four kinds of edge. -/
theorem everyEdgeKeepsTheInvariant : Obligations.EveryEdgeKeepsTheInvariant := by
  intro s t h hstep
  rcases clockEdge_cases s with
    ⟨-, hedge⟩ | ⟨-, hbusy, hedge⟩ | ⟨-, hrest, -, hedge⟩ | ⟨-, hrest, -, hedge⟩ <;> rw [step, hedge] at hstep
  · exact Host.Outcome.next.inj hstep ▸ h.resetRegisters
  · exact h.busyEdge hbusy hstep
  · exact Host.Outcome.next.inj hstep ▸ (h.writePort hrest _).acceptStart (by rw [writePort_phase]; exact hrest) _
  · exact Host.Outcome.next.inj hstep ▸ h.writePort hrest _

end Sys2Proof.Machine

/-! Progress (20_memory.md R52; 42_decimal_fraction.md R153; 60_exceptions.md R248). On the spans the tokenizer leaves every
stage answers, and answers with registers the next stage can run on; so do the runs of stages, and every edge. -/

namespace Sys2Proof.Machine

/-- A stage of a running transaction never stops: its span lies within the literal and holds digits. -/
theorem StageInv.runStage_answers {i : Instr} {s : State} (h : StageInv i s) :
    ∃ t, Machine.runStage (operationOf i) s = .next t := by
  cases hphase : s.phase with
  | idle => exact ⟨s, by rw [Machine.runStage, hphase]⟩
  | tokenize => exact ⟨_, runStage_of_tokenize hphase⟩
  | fraction =>
    have hfrac : (operationOf i).frac ≤ (operationOf i).width.bits := by simpa using frac_le_of_decode h.decodes
    obtain ⟨bytes, hread, hdigits⟩ := (h.spans (by rw [hphase]; rfl)).readSpan_frac
    obtain ⟨r, hstage, -⟩ := fractionStage_eq hfrac hread hdigits
    exact ⟨_, (runStage_of_fraction hphase).trans hstage⟩
  | integer =>
    obtain ⟨bytes, hread, hdigits⟩ := (h.spans (by rw [hphase]; rfl)).readSpan_int
    rw [runStage_of_integer hphase]
    rcases integerStage_eq hread hdigits with ⟨-, hstage⟩ | ⟨-, hstage⟩ <;> exact ⟨_, hstage⟩
  | assemble => exact ⟨_, runStage_of_assemble hphase⟩
  | done => exact ⟨s, runStage_of_done hphase⟩

/-- Stages that answer, each leaving what the next one needs, can be run up to any number short of DONE. -/
theorem advance_answers {op : Operation} {P : State → Prop} (hstage : ∀ s, P s → ∃ t, runStage op s = .next t ∧ P t)
    (n : Nat) {s : State} (hs : P s) : ∃ t, advance op n s = .next t := by
  induction n generalizing s with
  | zero => exact ⟨s, rfl⟩
  | succ n ih =>
    obtain ⟨u, hrun, hu⟩ := hstage s hs
    simp only [advance, hrun]
    split
    case isTrue => exact ⟨s, rfl⟩
    case isFalse => exact ih hu

/-- Stages that answer, each leaving what the next one needs, can be run to DONE. -/
theorem runToDone_answers {op : Operation} {P : State → Prop} (hstage : ∀ s, P s → ∃ t, runStage op s = .next t ∧ P t)
    {s : State} (hs : P s) : ∃ t, runToDone op s = .next t := by
  obtain ⟨u, hu, hPu⟩ := hstage s hs
  obtain ⟨v, hv, hPv⟩ := hstage u hPu
  obtain ⟨w, hw, hPw⟩ := hstage v hPv
  obtain ⟨t, ht, -⟩ := hstage w hPw
  exact ⟨t, runToDone_eq_next.mpr ⟨u, v, w, hu, hv, hw, ht⟩⟩

/-- An edge of a running transaction answers: at once on an illegal descriptor, else by its stages. -/
theorem Inv.busyEdge_answers {s : State} (h : Inv s) (hbusy : s.phase.isBusy = true) :
    ∃ t, Machine.busyEdge (nextEdge s) = .next t := by
  rw [Machine.busyEdge, nextEdge_cmd]
  cases hdecode : decode s.cmd with
  | illegal why => exact ⟨_, rfl⟩
  | instr i =>
    have hstage : ∀ s, StageInv i s → ∃ t, runStage (operationOf i) s = .next t ∧ StageInv i t := fun s hs =>
      hs.runStage_answers.imp fun t hrun => ⟨hrun, hs.runStage hrun⟩
    have hlegal := operationLegal_of_cmdLegal hdecode (h.busy_legal hbusy)
    dsimp only
    split
    case isTrue =>
      have hlen := len_le_of_cmdLegal (h.busy_legal hbusy)
      rw [exec_legal (s := setBusyLeft 0 (nextEdge s)) hbusy (frac_le_of_decode hdecode) hlen]
      exact runToDone_answers hstage (h.stageInv hbusy hdecode 0)
    case isFalse =>
      rw [holdEdge, setBusyLeft_len, nextEdge_len, if_pos hlegal]
      exact advance_answers hstage _ (h.stageInv hbusy hdecode _)

/-- Settles O50: of the four kinds of edge only one of a running transaction computes anything that could stop. -/
theorem noEdgeStopsTheMachine : Obligations.NoEdgeStopsTheMachine := by
  intro s h
  rcases clockEdge_cases s with
    ⟨-, hedge⟩ | ⟨-, hbusy, hedge⟩ | ⟨-, -, -, hedge⟩ | ⟨-, -, -, hedge⟩ <;> rw [step, hedge]
  · exact ⟨_, rfl⟩
  · exact h.busyEdge_answers hbusy
  · exact ⟨_, rfl⟩
  · exact ⟨_, rfl⟩

end Sys2Proof.Machine

/-! The TEXT write port at an edge (20_memory.md R51). Whether a write is performed is decided in one place, `writePort`, which
a reset edge and a busy edge never reach; nothing else at an edge writes TEXT. -/

namespace Sys2Proof.Machine

section WritePort

variable {s t : State} {p : PortIn} {rest : List PortIn}

/-! ## An edge by its input -/

theorem currentInput_of_cons (hinputs : s.inputs = p :: rest) : currentInput s = p := by
  rw [currentInput, hinputs]; rfl

/-- The edge uses its input up, whichever it was. -/
theorem nextEdge_with_input (hinputs : s.inputs = p :: rest) (q : PortIn) :
    nextEdge { s with inputs := q :: rest } = nextEdge s := by
  simp only [nextEdge, hinputs, List.tail_cons]

theorem step_of_reset (hinputs : s.inputs = p :: rest) (hreset : p.rst = true) :
    step s = .next (resetRegisters (nextEdge s)) := by
  simp only [step, clockEdge, currentInput_of_cons hinputs, hreset, if_true]

theorem step_of_busy (hinputs : s.inputs = p :: rest) (hreset : p.rst = false) (hbusy : s.phase.isBusy = true) :
    step s = busyEdge (nextEdge s) := by
  simp only [step, clockEdge, currentInput_of_cons hinputs, hreset, Bool.false_eq_true, if_false, nextEdge_phase, hbusy,
    if_true]

theorem step_of_rest (hinputs : s.inputs = p :: rest) (hreset : p.rst = false) (hrest : s.phase.isBusy = false) :
    step s = .next (restEdge p (writePort p (nextEdge s))) := by
  simp only [step, clockEdge, currentInput_of_cons hinputs, hreset, Bool.false_eq_true, if_false, nextEdge_phase, hrest]

/-! ## What becomes of TEXT -/

/-- Neither an accepted start nor a rest touches TEXT or its power-up contents. -/
theorem restEdge_text (p : PortIn) (s : State) :
    (restEdge p s).text = s.text ∧ (restEdge p s).textDraw = s.textDraw := by
  unfold restEdge
  split
  case isTrue => rcases acceptStart_cases p s with ⟨-, he⟩ | ⟨-, he⟩ <;> rw [he] <;> exact ⟨rfl, rfl⟩
  case isFalse => exact ⟨rfl, rfl⟩

theorem readText_restEdge (p : PortIn) (s : State) (a : Nat) : readText (restEdge p s) a = readText s a :=
  readText_congr (restEdge_text p s).1 (restEdge_text p s).2 a

/-- A running transaction only reads TEXT. -/
theorem busyEdge_text (hbusy : s.phase.isBusy = true) (h : busyEdge s = .next t) : t.text = s.text := by
  rcases busyEdge_cases hbusy h with ⟨-, -, rfl⟩ | ⟨i, -, ⟨-, n, rfl⟩ | ⟨-, -, hrun⟩ | ⟨-, -, hadvance⟩⟩
  · rfl
  · rfl
  · exact (runToDone_sameRequest hrun).cells
  · exact (advance_sameRequest hadvance).cells

theorem writePort_of_performed (hwrite : p.twEn = true) (hrest : s.phase.isBusy = false)
    (hindex : p.twAddr.toNat < Config.textMaxLen) : writePort p s = writeText p.twAddr.toNat p.twData s :=
  if_pos ⟨hwrite, hrest, hindex⟩

theorem writePort_of_outside (hindex : Config.textMaxLen ≤ p.twAddr.toNat) (s : State) : writePort p s = s :=
  if_neg fun h => absurd h.2.2 (by omega)

/-! ## The write at an edge -/

/-- A write is ignored outside TEXT, while busy and in reset (R51). -/
def WriteIgnored (p : PortIn) (s : State) : Prop :=
  Config.textMaxLen ≤ p.twAddr.toNat ∨ s.phase.isBusy = true ∨ p.rst = true

/-- At rest only the address is left as a cause. -/
theorem WriteIgnored.outside (h : WriteIgnored p s) (hreset : p.rst = false) (hrest : s.phase.isBusy = false) :
    Config.textMaxLen ≤ p.twAddr.toNat := by
  simpa [WriteIgnored, hreset, hrest] using h

/-- A performed write is read back behind whatever else the edge does. -/
theorem step_performs_write (hinputs : s.inputs = p :: rest) (hwf : Memory.wf s.text = true) (hwrite : p.twEn = true)
    (hreset : p.rst = false) (hrest : s.phase.isBusy = false) (hindex : p.twAddr.toNat < Config.textMaxLen) :
    ∃ t, step s = .next t ∧ ∀ a, readText t a = if a = p.twAddr.toNat then p.twData else readText s a := by
  refine ⟨_, step_of_rest hinputs hreset hrest, fun a => ?_⟩
  rw [readText_restEdge, writePort_of_performed (s := nextEdge s) hwrite hrest hindex, readText_writeText (nextEdge s) hwf]
  rfl

/-- The edge of an ignored write is the edge without it. -/
theorem step_eq_without_write (hinputs : s.inputs = p :: rest) (hignored : WriteIgnored p s) :
    step s = step { s with inputs := { p with twEn := false } :: rest } := by
  have hother : State.inputs { s with inputs := { p with twEn := false } :: rest } = { p with twEn := false } :: rest := rfl
  have hnext := nextEdge_with_input hinputs { p with twEn := false }
  rcases Bool.eq_false_or_eq_true p.rst with hreset | hreset
  · rw [step_of_reset hinputs hreset, step_of_reset hother hreset, hnext]
  · rcases Bool.eq_false_or_eq_true s.phase.isBusy with hphase | hphase
    · rw [step_of_busy hinputs hreset hphase, step_of_busy hother hreset hphase, hnext]
    · rw [step_of_rest hinputs hreset hphase, step_of_rest hother hreset hphase, hnext,
        writePort_of_outside (hignored.outside hreset hphase), writePort_of_not_twEn rfl]
      rfl

/-- Nothing but a performed write changes TEXT. -/
theorem step_text_of_writeIgnored (hinputs : s.inputs = p :: rest) (hignored : WriteIgnored p s) (h : step s = .next t) :
    t.text = s.text := by
  cases hreset : p.rst with
  | true =>
    rw [step_of_reset hinputs hreset] at h
    exact Host.Outcome.next.inj h ▸ rfl
  | false =>
    cases hphase : s.phase.isBusy with
    | true =>
      rw [step_of_busy hinputs hreset hphase] at h
      exact busyEdge_text (s := nextEdge s) hphase h
    | false =>
      rw [step_of_rest hinputs hreset hphase, writePort_of_outside (hignored.outside hreset hphase)] at h
      exact Host.Outcome.next.inj h ▸ (restEdge_text p (nextEdge s)).1

end WritePort

/-- Settles O10. -/
theorem textWritePortWritesOrIsIgnored : Obligations.TextWritePortWritesOrIsIgnored :=
  fun _ _ _ hinputs hwf hwrite =>
    ⟨step_performs_write hinputs hwf hwrite,
      fun hignored => ⟨step_eq_without_write hinputs hignored, fun _ => step_text_of_writeIgnored hinputs hignored⟩⟩

end Sys2Proof.Machine

/-! Decoders side by side (20_memory.md R64; 60_exceptions.md R254). -/

namespace Sys2Proof.Machine

/-- Settles O54: an edge of the row is the step of each of its members. -/
theorem instancesDoNotObserveEachOther : Obligations.InstancesDoNotObserveEachOther := by
  intro r n
  rw [Row.edge, List.getElem?_map]

end Sys2Proof.Machine

/-! The descriptor CMD (30_encoding.md R70 to R76, R82, R85, R86). Decoding and encoding meet in one relation, `Describes`: the
five fields of the word are those of the operation. The encoder makes the one word that describes an operation, and the
decoder finds the one well-formed operation that a word describes. -/

namespace Sys2Proof.Machine

/-! ## The operation and its fields -/

theorem signedBit_eq (i : Instr) : i.signedBit = BitVec.ofBool (operationOf i).signed := by cases i <;> rfl

/-- An operation is its four fields. -/
theorem selectInstr_fields (i : Instr) : selectInstr (operationOf i).signed i.baseCode i.width i.frac = i := by
  cases i <;> rfl

theorem operationOf_selectInstr_signed (signed : Bool) (base : BitVec 2) (w : Width) (f : BitVec 8) :
    (operationOf (selectInstr signed base w f)).signed = signed := by
  unfold selectInstr; split <;> rfl

theorem selectInstr_baseCode (signed : Bool) (base : BitVec 2) (w : Width) (f : BitVec 8) :
    (selectInstr signed base w f).baseCode = base := by
  match base with
  | 0 | 1 | 2 | 3 => cases signed <;> rfl

theorem radix_eq_of_baseCode (i : Instr) : (operationOf i).base.radix = [2, 8, 10, 16].getD i.baseCode.toNat 0 := by
  cases i <;> rfl

/-! ## The WIDTH code -/

/-- `W = 8 × 2^WIDTH` (R72). -/
theorem width_bits_eq (w : Width) : w.bits = 8 * 2 ^ (encodeWidth w).toNat := by cases w <;> rfl

theorem encodeWidth_le (w : Width) : (encodeWidth w).toNat ≤ 4 := by cases w <;> decide

theorem exists_encodeWidth_iff (code : BitVec 3) : (∃ w, encodeWidth w = code) ↔ code.toNat ≤ 4 := by
  constructor
  · rintro ⟨w, rfl⟩; exact encodeWidth_le w
  · intro h
    match code with
    | 0 => exact ⟨.w8, rfl⟩
    | 1 => exact ⟨.w16, rfl⟩
    | 2 => exact ⟨.w32, rfl⟩
    | 3 => exact ⟨.w64, rfl⟩
    | 4 => exact ⟨.w128, rfl⟩
    | 5 | 6 | 7 => exact absurd h (by decide)

@[simp] theorem decodeWidth_encodeWidth (w : Width) : decodeWidth (encodeWidth w) = some w := by cases w <;> rfl

theorem decodeWidth_of_reserved {code : BitVec 3} (h : 5 ≤ code.toNat) : decodeWidth code = none := by
  match code with
  | 5 | 6 | 7 => rfl
  | 0 | 1 | 2 | 3 | 4 => exact absurd h (by decide)

/-! ## The fields of a word -/

theorem toNat_cmdBase (cmd : U16) : (cmdBase cmd).toNat = cmd.toNat % 4 := by
  simp [cmdBase, BitVec.extractLsb'_toNat]

theorem toNat_cmdWidth (cmd : U16) : (cmdWidth cmd).toNat = cmd.toNat / 4 % 8 := by
  simp [cmdWidth, BitVec.extractLsb'_toNat, Nat.shiftRight_eq_div_pow]

theorem cmdSigned_iff (cmd : U16) : cmdSigned cmd = true ↔ cmd.toNat / 32 % 2 = 1 := by
  simp [cmdSigned, BitVec.getLsbD, Nat.testBit_eq_decide_div_mod_eq]

theorem toNat_cmdFrac (cmd : U16) : (cmdFrac cmd).toNat = cmd.toNat / 64 % 256 := by
  simp [cmdFrac, BitVec.extractLsb'_toNat, Nat.shiftRight_eq_div_pow]

theorem cmdRsvd_eq_zero_iff (cmd : U16) : cmdRsvd cmd = 0 ↔ cmd.toNat / 2 ^ 14 = 0 := by
  have hbound := cmd.isLt
  rw [← BitVec.toNat_inj]
  simp only [cmdRsvd, BitVec.extractLsb'_toNat, Nat.shiftRight_eq_div_pow]
  rw [Nat.mod_eq_of_lt (by omega)]
  rfl

/-- The word `cmd` describes the operation `i`: field for field, and RSVD is 0 (R70, R82). -/
structure Describes (cmd : U16) (i : Instr) : Prop where
  rsvd : cmdRsvd cmd = 0
  frac : cmdFrac cmd = i.frac
  signed : cmdSigned cmd = (operationOf i).signed
  width : cmdWidth cmd = encodeWidth i.width
  base : cmdBase cmd = i.baseCode

/-! ## The encoder -/

/-- Each field stands in its own place of the encoding, and RSVD is 0 (R70). -/
theorem describes_encode (i : Instr) : Describes (encode i) i := by
  constructor
  case signed => simp [cmdSigned, encode, signedBit_eq]
  all_goals
    apply BitVec.eq_of_getLsbD_eq
    intro n hn
    simp only [cmdRsvd, cmdFrac, cmdWidth, cmdBase, encode]
    interval_cases n <;> simp

/-- A word is made of its fields: no two words describe one operation. -/
theorem Describes.eq_encode {cmd : U16} {i : Instr} (h : Describes cmd i) : encode i = cmd := by
  obtain ⟨hrsvd, hfrac, hsigned, hwidth, hbase⟩ := h
  rw [encode, signedBit_eq, ← hfrac, ← hsigned, ← hwidth, ← hbase]
  have h14 : cmd[14] = false := by simpa [cmdRsvd] using congrArg (·.getLsbD 0) hrsvd
  have h15 : cmd[15] = false := by simpa [cmdRsvd] using congrArg (·.getLsbD 1) hrsvd
  apply BitVec.eq_of_getLsbD_eq
  intro n hn
  simp only [cmdFrac, cmdSigned, cmdWidth, cmdBase]
  interval_cases n <;> simp [h14, h15]

theorem encode_eq_iff {cmd : U16} {i : Instr} : encode i = cmd ↔ Describes cmd i :=
  ⟨fun h => h ▸ describes_encode i, Describes.eq_encode⟩

/-! ## The decoder -/

theorem decode_of_rsvd {cmd : U16} (h : cmdRsvd cmd ≠ 0) : decode cmd = .illegal .reservedBits := if_pos h

theorem decode_of_reservedWidth {cmd : U16} (hrsvd : cmdRsvd cmd = 0) (h : 5 ≤ (cmdWidth cmd).toNat) :
    decode cmd = .illegal .reservedWidth := by
  simp only [decode, hrsvd, decodeWidth_of_reserved h, ne_eq, not_true, if_false]

/-- With RSVD 0 and a WIDTH code that is not reserved, the check of FRAC is left (R74). -/
theorem decode_of_width {cmd : U16} {w : Width} (hrsvd : cmdRsvd cmd = 0) (hwidth : cmdWidth cmd = encodeWidth w) :
    decode cmd = if (cmdFrac cmd).toNat ≤ w.bits then
      .instr (selectInstr (cmdSigned cmd) (cmdBase cmd) w (cmdFrac cmd)) else .illegal .fracExceedsWidth := by
  simp only [decode, hrsvd, hwidth, decodeWidth_encodeWidth, ne_eq, not_true, if_false]

/-- A descriptor decodes exactly when RSVD is 0, WIDTH is not reserved and FRAC is at most W (R76 less its clause on LEN). -/
theorem decodes_iff (cmd : U16) : (∃ i, decode cmd = .instr i) ↔
    cmdRsvd cmd = 0 ∧ (cmdWidth cmd).toNat ≤ 4 ∧ (cmdFrac cmd).toNat ≤ 8 * 2 ^ (cmdWidth cmd).toNat := by
  by_cases hrsvd : cmdRsvd cmd = 0
  · by_cases hcode : (cmdWidth cmd).toNat ≤ 4
    · obtain ⟨w, hw⟩ := (exists_encodeWidth_iff _).mpr hcode
      rw [decode_of_width hrsvd hw.symm, ← hw, ← width_bits_eq]
      by_cases hfrac : (cmdFrac cmd).toNat ≤ w.bits <;> simp [hfrac, hrsvd, encodeWidth_le]
    · simp [decode_of_reservedWidth hrsvd (by omega), hcode]
  · exact iff_of_false (fun ⟨_, h⟩ => nomatch (decode_of_rsvd hrsvd).symm.trans h) fun h => hrsvd h.1

/-- The decoder finds the operation a word describes, if it is well formed, and no other. -/
theorem decode_eq_instr_iff {cmd : U16} {i : Instr} :
    decode cmd = .instr i ↔ Describes cmd i ∧ i.wellFormed = true := by
  rw [Instr.wellFormed, decide_eq_true_iff]
  constructor
  · intro h
    obtain ⟨hrsvd, hcode, hfrac⟩ := (decodes_iff cmd).mp ⟨i, h⟩
    obtain ⟨w, hw⟩ := (exists_encodeWidth_iff _).mpr hcode
    rw [← hw, ← width_bits_eq] at hfrac
    rw [decode_of_width hrsvd hw.symm, if_pos hfrac] at h
    obtain rfl := Decoded.instr.inj h
    rw [selectInstr_frac, selectInstr_width]
    exact ⟨⟨hrsvd, (selectInstr_frac ..).symm, (operationOf_selectInstr_signed ..).symm,
      by rw [selectInstr_width, hw], (selectInstr_baseCode ..).symm⟩, hfrac⟩
  · rintro ⟨⟨hrsvd, hfrac, hsigned, hwidth, hbase⟩, hfits⟩
    rw [decode_of_width hrsvd hwidth, hfrac, if_pos hfits, hsigned, hbase, selectInstr_fields]

/-! ## The statements -/

/-- Settles O1: an encoding describes its operation, which is the one the decoder finds. -/
theorem decodeOfEncodeIsTheOperation : Obligations.DecodeOfEncodeIsTheOperation :=
  fun i hwf => decode_eq_instr_iff.mpr ⟨describes_encode i, hwf⟩

/-- Settles O2: what the decoder finds is described by the word, and only its encoding describes it. -/
theorem encodeOfDecodeIsTheDescriptor : Obligations.EncodeOfDecodeIsTheDescriptor := fun _ _ hdecode =>
  have ⟨hdescribes, hwf⟩ := decode_eq_instr_iff.mp hdecode
  ⟨hdescribes.eq_encode, hwf⟩

/-- Settles O3. -/
theorem legalExactlyWhenDecodable : Obligations.LegalExactlyWhenDecodable := by
  intro cmd len
  rw [cmdLegal, decide_eq_true_iff, decodes_iff, Nat.shiftLeft_eq]
  tauto

/-- Settles O5: the layout values are those of the fields, and the fields are these digits of CMD. -/
theorem layoutValuesAreTheFieldsOfCmd : Obligations.LayoutValuesAreTheFieldsOfCmd := by
  intro cmd i hdecode
  have hfits := frac_le_of_decode hdecode
  obtain ⟨-, hfrac, hsigned, hwidth, hbase⟩ := (decode_eq_instr_iff.mp hdecode).1
  refine ⟨?_, ?_, ?_, ?_, ?_⟩
  · rw [operationOf_width, width_bits_eq, ← hwidth, toNat_cmdWidth]
  · rw [← hsigned, cmdSigned_iff]
  · rw [operationOf_frac, ← hfrac, toNat_cmdFrac]
  · rw [Operation.intBits, operationOf_width, operationOf_frac, Nat.sub_add_cancel hfits]
  · rw [radix_eq_of_baseCode, ← hbase, toNat_cmdBase]

/-- Settles O6: the descriptor is the encoding of its operation, of which the mask leaves SIGNED and BASE. -/
theorem opcodeMapSelectsTheOperation : Obligations.OpcodeMapSelectsTheOperation := by
  intro cmd i hdecode
  obtain ⟨hencode, -⟩ := encodeOfDecodeIsTheDescriptor cmd i hdecode
  rw [← hencode]
  exact (Laws.encode_masked i).trans (Laws.fields_are_match i)

/-- Settles O4: the decoder's three checks in their order. -/
theorem illegalDescriptorsAreNamed : Obligations.IllegalDescriptorsAreNamed := by
  intro cmd
  simp only [ne_eq, ← cmdRsvd_eq_zero_iff, ← toNat_cmdWidth, ← toNat_cmdFrac]
  refine ⟨decode_of_rsvd, decode_of_reservedWidth, fun hrsvd hcode hfrac => ?_⟩
  obtain ⟨w, hw⟩ := (exists_encodeWidth_iff _).mpr hcode
  rw [← hw, ← width_bits_eq] at hfrac
  rw [decode_of_width hrsvd hw.symm, if_neg (by omega)]

/-- Settles O7, by running the decoder on the eleven words. -/
theorem sampleDescriptorsDecode : Obligations.SampleDescriptorsDecode := by
  unfold Obligations.SampleDescriptorsDecode
  decide

end Sys2Proof.Machine

/-! The grammar of literals (30_encoding.md R81). `splitLiteral` reads off exactly the parts of a literal, so by
`tokenize_follows_splitLiteral` the tokenizer accepts exactly the literals. -/

namespace Sys2Proof.Machine

variable {base : Base} {negOk : Bool} {text : List Byte} {p : Parts}

theorem not_isDigit_charPoint (base : Base) : isDigit base charPoint = false := by cases base <;> decide

/-- The optional sign is split off in front of digits and a point (R81). -/
theorem splitSign_append {sign body : List Byte} {neg : Bool}
    (hsign : (sign = [] ∧ neg = false) ∨ (sign = [charPlus] ∧ neg = false)
      ∨ (sign = [charMinus] ∧ negOk = true ∧ neg = true))
    (hbody : ∀ c ∈ body.head?, c ≠ charPlus ∧ c ≠ charMinus) : splitSign negOk (sign ++ body) = (neg, body) := by
  rcases hsign with ⟨rfl, rfl⟩ | ⟨rfl, rfl⟩ | ⟨rfl, rfl, rfl⟩
  · cases body with
    | nil => rfl
    | cons c rest =>
      obtain ⟨hplus, hminus⟩ := hbody c rfl
      simp [splitSign, hplus, hminus]
  · rfl
  · rfl

/-- What follows the sign begins with a digit, with the point or not at all, so with no sign. -/
theorem head_ne_sign {int tail frac : List Byte} (hint : ∀ c ∈ int, isDigit base c = true)
    (htail : tail = [] ∨ tail = charPoint :: frac) : ∀ c ∈ (int ++ tail).head?, c ≠ charPlus ∧ c ≠ charMinus := by
  cases int with
  | cons d int =>
    rintro c ⟨⟩
    exact (isDigit_ne_special (hint d List.mem_cons_self)).2
  | nil =>
    rcases htail with rfl | rfl
    · nofun
    · rintro c ⟨⟩; decide

/-- A literal is split into its parts. -/
theorem splitLiteral_of_isLiteral (h : IsLiteral base negOk text p) : splitLiteral base negOk text = .ok p := by
  obtain ⟨sign, tail, rfl, hsign, htail, hint, hfrac, hsome⟩ := h
  have hhead := head_ne_sign hint (htail.imp_left And.left)
  have hparts : partsOrNoDigits p = .ok p := if_neg (by tauto)
  rw [splitLiteral, List.append_assoc, splitSign_append hsign hhead]
  simp only [List.takeWhile_append_of_pos hint, List.dropWhile_append_of_pos hint]
  rcases htail with ⟨rfl, hnofrac⟩ | rfl
  · obtain ⟨neg, int, frac⟩ := p
    obtain rfl := hnofrac
    simp [hparts]
  · simp [not_isDigit_charPoint, List.dropWhile_eq_nil_iff.mpr hfrac, List.takeWhile_eq_self_iff.mpr hfrac, hparts]

theorem RecordSplits.isLiteral {r : LiteralRecord} {sign tail : List Byte}
    (h : RecordSplits base negOk text r p sign tail) : IsLiteral base negOk text p :=
  ⟨sign, tail, h.text_eq, h.sign_cases, h.tail_cases.imp (fun ⟨htail, hfrac, _⟩ => ⟨htail, hfrac⟩) And.left,
    h.int_digits, h.frac_digits, h.some_digit⟩

/-- Settles O19: both sides are what `splitLiteral` answers. -/
theorem tokenizerAcceptsExactlyTheGrammar : Obligations.TokenizerAcceptsExactlyTheGrammar := by
  intro base negOk text
  rcases tokenize_follows_splitLiteral base negOk text with
    ⟨e, hsplit, htokens⟩ | ⟨p, r, sign, tail, -, htokens, hrecord⟩
  · refine iff_of_false (fun ⟨_, h⟩ => nomatch htokens.symm.trans h) fun ⟨p, h⟩ => ?_
    exact nomatch hsplit.symm.trans (splitLiteral_of_isLiteral h)
  · exact iff_of_true ⟨r, htokens⟩ ⟨p, hrecord.isLiteral⟩

end Sys2Proof.Machine

/-! A busy phase without a legal request (30_encoding.md R86; 45_operations.md R211; log entry 8). -/

namespace Sys2Proof.Machine

theorem operationLegal_eq_false_iff (op : Operation) (len : U16) :
    operationLegal op len = false ↔ op.width.bits < op.frac ∨ Config.textMaxLen < len.toNat := by
  rw [operationLegal, decide_eq_false_iff_not, not_and_or, Nat.not_le, Nat.not_le]

theorem runOperation_illegal {op : Operation} {s : State} (hbusy : s.phase.isBusy = true)
    (hillegal : operationLegal op s.len = false) : runOperation op s = .next (raiseError .configInvalid s) := by
  simp only [runOperation, hbusy, hillegal, Bool.true_eq_false, Bool.false_eq_true, if_false]

/-- Settles O46. -/
theorem illegalFormsEndInConfigInvalid : Obligations.IllegalFormsEndInConfigInvalid := by
  intro i s hbusy hform
  rw [exec_eq_runOperation]
  refine runOperation_illegal hbusy ((operationLegal_eq_false_iff _ _).mpr ?_)
  rwa [operationOf_width, operationOf_frac]

end Sys2Proof.Machine

/-! The host's edges for a request (30_encoding.md R83; 20_memory.md R51; 70_reset_and_hazards.md R272). Each write edge keeps
the block at rest with one more byte of the literal in TEXT; the start edge then finds the request legal. -/

namespace Sys2Proof.Machine

/-! ## Edges in a row -/

theorem run_of_step {s t : State} (h : step s = .next t) (n : Nat) :
    Host.Core.run Sys2Proof.core (n + 1) s = Host.Core.run Sys2Proof.core n t := by
  simp [Host.Core.run, core, h]

/-- Edges after edges. -/
theorem run_add {m n : Nat} {s t : State} (h : Host.Core.run Sys2Proof.core m s = .next t) :
    Host.Core.run Sys2Proof.core (m + n) s = Host.Core.run Sys2Proof.core n t := by
  induction m generalizing s with
  | zero => rw [Nat.zero_add, Host.Outcome.next.inj h]
  | succ m ih =>
    cases hstep : step s with
    | next u =>
      rw [run_of_step hstep] at h
      rw [Nat.add_right_comm, run_of_step hstep, ih h]
    | fault r => simp [Host.Core.run, core, hstep] at h
    | refused r => simp [Host.Core.run, core, hstep] at h

theorem restEdge_of_no_start {p : PortIn} (h : p.start = false) (s : State) : restEdge p s = s := by
  rw [restEdge, h]; rfl

theorem restEdge_of_start {p : PortIn} (h : p.start = true) (s : State) : restEdge p s = acceptStart p s := if_pos h

theorem acceptStart_of_legal {p : PortIn} (h : cmdLegal p.cmdIn p.lenIn = true) (s : State) :
    acceptStart p s =
      beginTransaction (Config.latency p.cmdIn p.lenIn (textPrefix s p.lenIn.toNat)) (latchRequest p s) := if_pos h

/-! ## The literal's bytes -/

/-- The state `t` is `s` with `bytes` written to TEXT from index `i` on. -/
structure TextWritten (i : Nat) (bytes : List Byte) (s t : State) : Prop where
  inside : ∀ n (h : n < bytes.length), readText t (i + n) = bytes[n]
  outside : ∀ a, a < i ∨ i + bytes.length ≤ a → readText t a = readText s a

theorem TextWritten.nil (i : Nat) (s : State) : TextWritten i [] s s := ⟨nofun, fun _ _ => rfl⟩

/-- One more byte in front. -/
theorem TextWritten.cons {i : Nat} {b : Byte} {bytes : List Byte} {s u t : State}
    (hfirst : ∀ a, readText u a = if a = i then b else readText s a) (h : TextWritten (i + 1) bytes u t) :
    TextWritten i (b :: bytes) s t := by
  constructor
  · rintro (_ | n) hn
    · rw [Nat.add_zero, h.outside i (.inl (by omega)), hfirst, if_pos rfl, List.getElem_cons_zero]
    · have hplace : i + (n + 1) = i + 1 + n := by omega
      rw [hplace, h.inside n (Nat.lt_of_succ_lt_succ hn), List.getElem_cons_succ]
  · intro a ha
    rw [List.length_cons] at ha
    rw [h.outside a (by omega), hfirst, if_neg (by omega)]

/-- A write edge at rest: one byte of TEXT, and no start. -/
theorem step_write {s : State} {i : Nat} {b : Byte} {rest : List PortIn} (hwf : Memory.wf s.text = true)
    (hrest : s.phase.isBusy = false) (hi : i < Config.textMaxLen) (hinputs : s.inputs = PortIn.write i b :: rest) :
    ∃ t, step s = .next t ∧ Memory.wf t.text = true ∧ t.phase.isBusy = false ∧ t.inputs = rest
      ∧ ∀ a, readText t a = if a = i then b else readText s a := by
  have hindex : (PortIn.write i b).twAddr.toNat = i := by
    have := textMaxLen_bounds.2
    rw [PortIn.write, BitVec.toNat_ofNat, Nat.mod_eq_of_lt (by omega)]
  have hstep : step s = .next (writeText i b (nextEdge s)) := by
    rw [step_of_rest hinputs rfl hrest, restEdge_of_no_start rfl,
      writePort_of_performed (s := nextEdge s) rfl hrest (by rwa [hindex]), hindex]
    rfl
  exact ⟨_, hstep, Memory.store_wf _ hwf _ _, hrest, by simp [hinputs], fun a => readText_writeText (nextEdge s) hwf i a b⟩

theorem run_writeEdges {s : State} {i : Nat} {bytes : List Byte} {rest : List PortIn} (hwf : Memory.wf s.text = true)
    (hrest : s.phase.isBusy = false) (hfits : i + bytes.length ≤ Config.textMaxLen)
    (hinputs : s.inputs = writeEdges i bytes ++ rest) :
    ∃ t, Host.Core.run Sys2Proof.core bytes.length s = .next t ∧ t.phase.isBusy = false ∧ t.inputs = rest
      ∧ TextWritten i bytes s t := by
  induction bytes generalizing i s with
  | nil => exact ⟨s, rfl, hrest, hinputs, .nil i s⟩
  | cons b bytes ih =>
    rw [List.length_cons] at hfits
    obtain ⟨u, hstep, huwf, hurest, huinputs, hu⟩ := step_write hwf hrest (by omega) hinputs
    obtain ⟨t, hrun, htrest, htinputs, hwritten⟩ := ih huwf hurest (by omega) huinputs
    exact ⟨t, (run_of_step hstep _).trans hrun, htrest, htinputs, .cons hu hwritten⟩

/-! ## The start -/

/-- A start edge with a legal descriptor. -/
theorem step_begin {s : State} {cmd len : U16} {rest : List PortIn} (hrest : s.phase.isBusy = false)
    (hlegal : cmdLegal cmd len = true) (hinputs : s.inputs = PortIn.begin cmd len :: rest) :
    ∃ t, step s = .next t ∧ t.phase = .tokenize ∧ t.cmd = cmd ∧ t.len = len ∧ t.inputs = rest
      ∧ ∀ a, readText t a = readText s a := by
  have hstep := step_of_rest hinputs rfl hrest
  rw [restEdge_of_start rfl, writePort_of_not_twEn rfl, acceptStart_of_legal (p := PortIn.begin cmd len) hlegal] at hstep
  exact ⟨_, hstep, rfl, rfl, rfl, by simp [hinputs], fun _ => rfl⟩

/-- A well-formed request is legal if its text fits, and its LEN is then the text's length (R76, R83). -/
theorem request_legal {q : Request} (hwf : q.instr.wellFormed = true) (hfits : q.text.length ≤ Config.textMaxLen) :
    q.len.toNat = q.text.length ∧ cmdLegal q.cmd q.len = true := by
  have hlen : q.len.toNat = q.text.length := by
    have := textMaxLen_bounds.2
    rw [Request.len, BitVec.toNat_ofNat, Nat.mod_eq_of_lt (by omega)]
  exact ⟨hlen, (legalExactlyWhenDecodable _ _).mpr ⟨hlen ▸ hfits, q.instr, decodeOfEncodeIsTheOperation _ hwf⟩⟩

/-- Bytes written from index 0 on are the literal of their length. -/
theorem literalBytes_of_textWritten {bytes : List Byte} {s u t : State} (h : TextWritten 0 bytes s u)
    (htext : ∀ a, readText t a = readText u a) (hlen : t.len.toNat = bytes.length) : literalBytes t = bytes := by
  refine List.ext_getElem (by rw [length_literalBytes, hlen]) fun n _ hn => ?_
  have hread := h.inside n hn
  rw [Nat.zero_add] at hread
  simp [literalBytes, textPrefix, htext, hread]

/-- Settles O53: the write edges, then the start edge. -/
theorem requestEdgesLoadTheRequest : Obligations.RequestEdgesLoadTheRequest := by
  intro s q rest hwf hrest hq hfits hinputs
  rw [requestEdges, List.append_assoc] at hinputs
  obtain ⟨hlen, hlegal⟩ := request_legal hq hfits
  obtain ⟨u, hrun, hurest, huinputs, hwritten⟩ := run_writeEdges hwf hrest (by omega) hinputs
  obtain ⟨t, hstep, hphase, hcmd, htlen, htinputs, htext⟩ := step_begin hurest hlegal huinputs
  rw [← htlen] at hlen
  exact ⟨t, (run_add hrun).trans (run_of_step hstep 0), hphase, hcmd ▸ decodeOfEncodeIsTheOperation _ hq, hlen,
    literalBytes_of_textWritten hwritten htext hlen, htinputs,
    fun a ha => (htext a).trans (hwritten.outside a (.inr (by omega)))⟩

end Sys2Proof.Machine

/-! The tokenizer's spans and errors (40_tokenizer.md R107 to R110): the spans of an accepted text, by its `RecordSplits`; the
first error, by induction on the bytes scanned; and the texts without a digit, by what `splitLiteral` takes off them. -/

namespace Sys2Proof.Machine

variable {base : Base} {negOk : Bool} {text sign tail : List Byte} {p : Parts} {r : LiteralRecord} {e : ErrorKind}

/-! ## The spans -/

theorem recordSplits_of_tokenize (h : tokenize base negOk text = .ok r) :
    ∃ p sign tail, RecordSplits base negOk text r p sign tail := by
  rcases tokenize_follows_splitLiteral base negOk text with ⟨e, -, htokens⟩ | ⟨p, r', sign, tail, -, htokens, hrecord⟩
  · exact nomatch htokens.symm.trans h
  · obtain rfl := Except.ok.inj (htokens.symm.trans h)
    exact ⟨p, sign, tail, hrecord⟩

theorem take_drop_of_eq_append {before span after : List Byte} (h : text = before ++ span ++ after) :
    (text.drop before.length).take span.length = span := by
  rw [h, List.append_assoc, List.drop_left, List.take_left]

theorem RecordSplits.intSpan_eq (h : RecordSplits base negOk text r p sign tail) :
    (text.drop r.intLo).take (r.intHi - r.intLo) = p.int := by
  rw [h.intHi_eq, h.intLo_eq, Nat.add_sub_cancel_left, take_drop_of_eq_append h.text_eq]

theorem RecordSplits.fracSpan_eq (h : RecordSplits base negOk text r p sign tail) :
    (text.drop r.fracLo).take (r.fracHi - r.fracLo) = p.frac := by
  obtain ⟨before, htext, hlo, hhi, -⟩ := h.frac_place
  rw [hhi, hlo, Nat.add_sub_cancel_left, take_drop_of_eq_append htext]

/-- One sign at most stands in front of the integer span (R103, R104). -/
theorem RecordSplits.intLo_le_one (h : RecordSplits base negOk text r p sign tail) : r.intLo ≤ 1 := by
  rw [h.intLo_eq]
  rcases h.sign_cases with ⟨rfl, -⟩ | ⟨rfl, -⟩ | ⟨rfl, -⟩ <;> decide

/-- Between the spans stands the point; without a point the integer span ends at LEN and the fraction span is empty there
(R109). -/
theorem RecordSplits.between_spans (h : RecordSplits base negOk text r p sign tail) :
    (r.intHi = text.length ∧ r.fracLo = text.length)
      ∨ (r.intHi < r.fracLo ∧ r.fracLo = r.intHi + 1 ∧ text[r.intHi]? = some charPoint) := by
  have htext := h.text_eq
  have hhi := h.intHi_eq
  rw [← List.length_append] at hhi
  rcases h.tail_cases with ⟨rfl, -, hlo⟩ | ⟨rfl, hlo⟩
  · exact .inl ⟨by rw [hhi, htext, List.append_nil], hlo⟩
  · exact .inr ⟨by omega, hlo, by rw [htext, hhi, List.getElem?_append_right le_rfl, Nat.sub_self, List.getElem?_cons_zero]⟩

/-- Settles O20: the record of an accepted text splits it. -/
theorem tokenizerFindsTheSpans : Obligations.TokenizerFindsTheSpans := by
  intro base negOk text r htokens
  obtain ⟨p, sign, tail, h⟩ := recordSplits_of_tokenize htokens
  obtain ⟨before, -, hfracLo, hfracHi, -⟩ := h.frac_place
  have hintLo := h.intLo_eq
  have hintHi := h.intHi_eq
  refine ⟨h.intLo_le_one, by omega, by omega, h.fracHi_eq, h.between_spans, ?_⟩
  rw [h.intSpan_eq, h.fracSpan_eq, h.neg_eq]
  exact h.isLiteral

/-! ## The first error -/

/-- Bytes behind the one that raises are not scanned (R107). -/
theorem scan_append_of_error {i : Nat} {seen : List Byte} {st : Scan} (h : scan base negOk i seen st = .error e)
    (later : List Byte) : scan base negOk i (seen ++ later) st = .error e := by
  induction seen generalizing i st with
  | nil => exact nomatch h
  | cons c seen ih =>
    rw [List.cons_append, scan]
    rw [scan] at h
    cases hbyte : scanByte base negOk i c st with
    | error e' => simpa only [hbyte] using h
    | ok st' => exact ih (by simpa only [hbyte] using h)

/-- Settles O21: the scan stops within the bytes seen; the two examples run. -/
theorem firstErrorWins : Obligations.FirstErrorWins :=
  ⟨fun _ _ _ later _ h => tokenize_of_scan_error (scan_append_of_error h later), rfl, rfl⟩

/-! ## No digits -/

theorem tokenize_eq_error_iff : tokenize base negOk text = .error e ↔ splitLiteral base negOk text = .error e := by
  rcases tokenize_follows_splitLiteral base negOk text with ⟨e', hsplit, htokens⟩ | ⟨p, r, -, -, hsplit, htokens, -⟩ <;>
    simp [hsplit, htokens]

theorem partsOrNoDigits_eq_noDigits_iff : partsOrNoDigits p = .error .noDigits ↔ p.int = [] ∧ p.frac = [] := by
  simp [partsOrNoDigits]

theorem strayByte_ne_noDigits (c : Byte) : strayByte c ≠ .noDigits := by
  rw [strayByte]; split <;> nofun

theorem dropWhile_eq_self_of_takeWhile_eq_nil {l : List Byte} (h : l.takeWhile (isDigit base) = []) :
    l.dropWhile (isDigit base) = l := by
  have hl := List.takeWhile_append_dropWhile (p := isDigit base) (l := l)
  rwa [h, List.nil_append] at hl

/-- A text has no digits exactly if nothing but a point follows its sign (R81, R108). -/
theorem splitLiteral_eq_noDigits_iff : splitLiteral base negOk text = .error .noDigits ↔
    (splitSign negOk text).2 = [] ∨ (splitSign negOk text).2 = [charPoint] := by
  generalize hsplit : splitSign negOk text = taken
  obtain ⟨neg, body⟩ := taken
  simp only [splitLiteral, hsplit]
  constructor
  · intro h
    cases hrest : body.dropWhile (isDigit base) with
    | nil =>
      simp only [hrest, partsOrNoDigits_eq_noDigits_iff] at h
      obtain ⟨hnoint, -⟩ := h
      exact .inl ((dropWhile_eq_self_of_takeWhile_eq_nil hnoint).symm.trans hrest)
    | cons c afterInt =>
      by_cases hpoint : c = charPoint
      · subst hpoint
        cases hend : afterInt.dropWhile (isDigit base) with
        | nil =>
          simp only [hrest, hend, if_true, partsOrNoDigits_eq_noDigits_iff] at h
          obtain ⟨hnoint, hnofrac⟩ := h
          have hafter := (dropWhile_eq_self_of_takeWhile_eq_nil hnofrac).symm.trans hend
          exact .inr (by rw [← dropWhile_eq_self_of_takeWhile_eq_nil hnoint, hrest, hafter])
        | cons c' later => simp [hrest, hend, strayByte_ne_noDigits] at h
      · simp [hrest, hpoint] at h
  · rintro (rfl | rfl) <;> simp [not_isDigit_charPoint, partsOrNoDigits_eq_noDigits_iff]

/-- Nothing but a point follows the sign of these texts only: the minus is a sign where it is allowed (R103, R104). -/
theorem splitSign_digitless_iff :
    ((splitSign negOk text).2 = [] ∨ (splitSign negOk text).2 = [charPoint]) ↔
      (text = [] ∨ text = [charPoint] ∨ text = [charPlus] ∨ text = [charPlus, charPoint])
      ∨ (negOk = true ∧ (text = [charMinus] ∨ text = [charMinus, charPoint])) := by
  have hplusPoint : charPlus ≠ charPoint := by decide
  have hminusPoint : charMinus ≠ charPoint := by decide
  have hminusPlus : charMinus ≠ charPlus := by decide
  cases text with
  | nil => simp [splitSign]
  | cons c rest =>
    by_cases hplus : c = charPlus
    · simp [splitSign, hplus, hplusPoint, hminusPlus.symm]
    · by_cases hminus : c = charMinus ∧ negOk = true
      · obtain ⟨rfl, rfl⟩ := hminus
        simp [splitSign, hminusPoint, hminusPlus]
      · have hnosign : ¬(negOk = true ∧ (c :: rest = [charMinus] ∨ c :: rest = [charMinus, charPoint])) := by
          rintro ⟨hneg, h | h⟩ <;> exact hminus ⟨List.head_eq_of_cons_eq h, hneg⟩
        rw [or_iff_left hnosign]
        simp [splitSign, hplus, hminus]

/-- Settles O22: TOKENIZE and `splitLiteral` raise the same errors. -/
theorem noDigitsExactlyOnDigitlessTexts : Obligations.NoDigitsExactlyOnDigitlessTexts := fun _ _ _ =>
  tokenize_eq_error_iff.trans (splitLiteral_eq_noDigits_iff.trans splitSign_digitless_iff)

end Sys2Proof.Machine

/-! The exact converter on its own (41_exact_fraction.md R123 to R129): the general facts of its digit loop, read at the
statements' inputs. -/

namespace Sys2Proof.Machine

/-- Settles O23. -/
theorem exactFractionRoundsHalfUp : Obligations.ExactFractionRoundsHalfUp := by
  intro d f digits _ _ hdigits
  rw [Nat.pow_mul]
  exact exactFraction_isFractionOf hdigits

/-- Settles O24: the loop ends at once, with nothing accumulated. -/
theorem emptyExactFractionIsZero : Obligations.EmptyExactFractionIsZero := by
  intro d f
  rw [exactFraction, exactLoop, Nat.zero_shiftLeft]
  rfl

/-- The loop with more digits to come than the field has room for ends at a boundary digit among them (R123, R129). -/
theorem exactLoop_append_of_boundary {d f : Nat} {digits : List Nat} (later : List Nat) {rem : Nat} (acc : Nat)
    (hboundary : rem < d * digits.length) :
    exactLoop d f (digits ++ later) rem acc = exactLoop d f digits rem acc := by
  induction digits generalizing rem acc with
  | nil => simp at hboundary
  | cons v rest ih =>
    rw [List.length_cons, Nat.mul_add_one] at hboundary
    rw [List.cons_append, exactLoop, exactLoop]
    split
    case isTrue => rfl
    case isFalse hmore => exact ih _ (by omega)

/-- Settles O25. -/
theorem digitsAfterTheBoundaryAreUnread : Obligations.DigitsAfterTheBoundaryAreUnread :=
  fun _ _ _ later hboundary => exactLoop_append_of_boundary later 0 hboundary

end Sys2Proof.Machine

/-! A well-formed literal under a legal layout, run to DONE (45_operations.md R211; 44_assembler.md R190 to R195): the two
fraction registers keep the rounded fraction, and STATUS and RESULT are those of the flat form. The integer converter
refuses exactly the magnitudes of more than W bits, the assembler those past a signed layout's bound. -/

namespace Sys2Proof.Machine

theorem IsFractionOf.eq_fractionOfUnits {r : Fraction} {f q : Nat} (h : IsFractionOf r f q) : r = fractionOfUnits f q := by
  obtain ⟨hle, hone, hfield⟩ := h
  rcases hle.lt_or_eq with hlt | heq
  · rw [hfield hlt, fractionOfUnits_of_lt hlt]
  · rw [hone heq, fractionOfUnits_of_ge heq.ge]

/-! ## The magnitude -/

/-- The integer digits with CARRY, and FRAC_FIELD below them, are the rounded magnitude (R190). -/
theorem flatMagnitude_eq_of_isFractionOf {op : Operation} {p : Parts} {fr : Fraction} (hfrac : op.frac ≤ 128)
    (h : IsFractionOf fr op.frac (fractionUnits op.base op.frac (p.frac.map digitValue))) :
    flatMagnitude op p = (spanValue op.base p.int + carryUnit fr.carry) * 2 ^ op.frac + fr.field.toNat := by
  obtain ⟨-, -, hunits⟩ := h.registers hfrac
  rw [flatMagnitude, ← hunits, spanValue]; ring

/-- Above an F-bit field, a value passes W bits exactly when its part above the field passes IB bits. -/
theorem two_pow_width_le_iff {op : Operation} (hfrac : op.frac ≤ op.width.bits) {n field : Nat}
    (hfield : field < 2 ^ op.frac) : 2 ^ op.width.bits ≤ n * 2 ^ op.frac + field ↔ 2 ^ op.intBits ≤ n := by
  have hwidth : 2 ^ op.width.bits = 2 ^ op.intBits * 2 ^ op.frac := by
    rw [← Nat.pow_add, Operation.intBits, Nat.sub_add_cancel hfrac]
  have hdiv : (n * 2 ^ op.frac + field) / 2 ^ op.frac = n := by
    rw [Nat.add_comm, Nat.add_mul_div_right _ _ (Nat.two_pow_pos _), Nat.div_eq_of_lt hfield, Nat.zero_add]
  rw [hwidth, ← Nat.le_div_iff_mul_le (Nat.two_pow_pos _), hdiv]

theorem magnitudeLimit_lt (op : Operation) (neg : Bool) : magnitudeLimit op neg < 2 ^ op.width.bits := by
  have hpos := Nat.two_pow_pos op.width.bits
  have hhalf : 2 ^ (op.width.bits - 1) < 2 ^ op.width.bits :=
    Nat.pow_lt_pow_right (by decide) (Nat.sub_lt (by cases op.width <;> decide) (by decide))
  unfold magnitudeLimit signedBound
  split_ifs <;> omega

/-! ## The assembler -/

/-- On a W-bit magnitude the assembler answers the raw pattern, or Overflow past the layout's limit (R191 to R195). -/
theorem applySign_eq {op : Operation} {neg : Bool} {mag : U128} (hunsigned : op.signed = false → neg = false)
    (hmag : mag.toNat < 2 ^ op.width.bits) :
    applySign op neg mag
      = if magnitudeLimit op neg < mag.toNat then none
        else some (BitVec.ofNat 128 (rawPattern op.width neg mag.toNat)) := by
  cases hsigned : op.signed with
  | true => cases neg <;> simp [applySign, magnitudeLimit, rawPattern, hsigned]
  | false =>
    obtain rfl := hunsigned hsigned
    have hfits : ¬ 2 ^ op.width.bits - 1 < mag.toNat := by omega
    simp [applySign, magnitudeLimit, rawPattern, hsigned, hfits]

theorem assembleStage_flatValue {op : Operation} {s : State} {p : Parts} (hneg : s.neg = p.neg)
    (hunsigned : op.signed = false → p.neg = false)
    (hmag : (s.intField ||| s.fracField).toNat = flatMagnitude op p)
    (hfits : flatMagnitude op p < 2 ^ op.width.bits) :
    ((assembleStage op s).status, (assembleStage op s).result) = flatValue op p := by
  have hsign := applySign_eq (mag := s.intField ||| s.fracField) hunsigned (hmag ▸ hfits)
  rw [hmag] at hsign
  rw [flatValue]
  rcases assembleStage_cases op s with ⟨out, hout, hstage⟩ | ⟨hnone, hstage⟩ <;> rw [hstage]
  · rw [hneg, hsign] at hout
    split_ifs at hout with hover
    rw [if_neg hover, Option.some.inj hout]; rfl
  · rw [hneg, hsign] at hnone
    split_ifs at hnone with hover
    rw [if_pos hover]; rfl

theorem assembleStage_keeps (op : Operation) (s : State) :
    (assembleStage op s).phase = .done ∧ (assembleStage op s).fracField = s.fracField
      ∧ (assembleStage op s).carry = s.carry := by
  rcases assembleStage_cases op s with ⟨out, -, hstage⟩ | ⟨-, hstage⟩ <;> rw [hstage] <;> exact ⟨rfl, rfl, rfl⟩

/-! ## The whole run -/

theorem RecordSplits.neg_eq_false_of_unsigned {base : Base} {negOk : Bool} {text sign tail : List Byte}
    {r : LiteralRecord} {p : Parts} (h : RecordSplits base negOk text r p sign tail) (hunsigned : negOk = false) :
    p.neg = false := by
  rcases h.sign_cases with ⟨-, hneg⟩ | ⟨-, hneg⟩ | ⟨-, hsigned, -⟩
  · exact hneg
  · exact hneg
  · exact absurd (hunsigned.symm.trans hsigned) (by decide)

/-- A literal's run ends in DONE with its flat outcome, and with its rounded fraction still in FRAC_FIELD and CARRY (R211;
log entry 7). -/
theorem runOperation_of_literal {op : Operation} {s : State} {p : Parts} (hphase : s.phase = .tokenize)
    (hfrac : op.frac ≤ op.width.bits) (hlen : s.len.toNat ≤ Config.textMaxLen)
    (hsplit : splitLiteral op.base op.signed (literalBytes s) = .ok p) :
    ∃ t, runOperation op s = .next t ∧ t.phase = .done ∧ (t.status, t.result) = flatValue op p
      ∧ (⟨t.fracField, t.carry⟩ : Fraction)
          = fractionOfUnits op.frac (fractionUnits op.base op.frac (p.frac.map digitValue)) := by
  rw [runOperation_legal (by rw [hphase]; rfl) hfrac hlen]
  rcases runToDone_of_tokenize hphase hfrac with ⟨e, herror, -⟩ | ⟨q, r, sign, tail, fr, hok, hrecord, hround, hend⟩
  · cases hsplit.symm.trans herror
  obtain rfl : p = q := Except.ok.inj (hsplit.symm.trans hok)
  have hfrac128 := hfrac.trans (width_bits_le_128 op.width)
  obtain ⟨-, hfield, -⟩ := hround.registers hfrac128
  have hmagnitude := flatMagnitude_eq_of_isFractionOf hfrac128 hround
  have hwidth := two_pow_width_le_iff hfrac (n := spanValue op.base p.int + carryUnit fr.carry) hfield
  rw [← hmagnitude] at hwidth
  rw [← hround.eq_fractionOfUnits]
  rcases hend with ⟨hover, hrun⟩ | ⟨hfits, v, hv, hrun⟩
  · have hlimit := (magnitudeLimit_lt op p.neg).trans_le (hwidth.mpr hover)
    exact ⟨_, hrun, rfl, by rw [flatValue, if_pos hlimit]; rfl, rfl⟩
  · have hjoined : (v ||| fr.field).toNat = flatMagnitude op p := by
      rw [joined_toNat (by rw [hv]; exact Nat.dvd_mul_left _ _) hfield, hv, hmagnitude]
    obtain ⟨hdone, hkept, hcarry⟩ := assembleStage_keeps op (setIntField v (setFraction fr (setLiteral r s)))
    refine ⟨_, hrun, hdone, ?_, by rw [hkept, hcarry]; rfl⟩
    exact assembleStage_flatValue hrecord.neg_eq hrecord.neg_eq_false_of_unsigned hjoined
      (not_le.mp fun h => absurd (hwidth.mp h) (not_le.mpr hfits))

end Sys2Proof.Machine

/-! Bases 2, 8 and 16 side by side (41_exact_fraction.md R131). Their fraction is rounded from all of the digits, so it goes
by the ratio the digits spell, and what a layout makes of a literal depends on its sign, integer value and fraction only. -/

namespace Sys2Proof.Machine

/-- Equal ratios round alike. -/
theorem roundHalfUp_congr {n d m e : Nat} (hd : 0 < d) (he : 0 < e) (h : n * e = m * d) :
    roundHalfUp n d = roundHalfUp m e := by
  rw [← roundHalfUp_mul_right he n d, ← roundHalfUp_mul_right hd m e, h, Nat.mul_comm d e]

theorem fractionUnits_of_ne_b10 {base : Base} (h : base ≠ .b10) (f : Nat) (digits : List Byte) :
    fractionUnits base f (digits.map digitValue)
      = roundHalfUp (spanValue base digits * 2 ^ f) (base.radix ^ digits.length) := by
  rw [← List.length_map (f := digitValue)]
  cases base with
  | b10 => exact absurd rfl h
  | b2 | b8 | b16 => rfl

theorem fractionUnits_congr {a b : Base} (ha : a ≠ .b10) (hb : b ≠ .b10) {x y : List Byte}
    (h : spanValue a x * b.radix ^ y.length = spanValue b y * a.radix ^ x.length) (f : Nat) :
    fractionUnits a f (x.map digitValue) = fractionUnits b f (y.map digitValue) := by
  rw [fractionUnits_of_ne_b10 ha, fractionUnits_of_ne_b10 hb]
  refine roundHalfUp_congr (Nat.pow_pos a.radix_pos) (Nat.pow_pos b.radix_pos) ?_
  rw [Nat.mul_right_comm, h, Nat.mul_right_comm]

/-- The flat outcome depends on the base only through the values of the two spans. -/
theorem flatValue_congr {a b : Operation} {p q : Parts} (hsigned : a.signed = b.signed) (hwidth : a.width = b.width)
    (hfrac : a.frac = b.frac) (hneg : p.neg = q.neg) (hint : spanValue a.base p.int = spanValue b.base q.int)
    (hunits : fractionUnits a.base a.frac (p.frac.map digitValue) = fractionUnits b.base b.frac (q.frac.map digitValue)) :
    flatValue a p = flatValue b q := by
  have hmagnitude : flatMagnitude a p = flatMagnitude b q := by
    rw [spanValue, spanValue] at hint
    rw [flatMagnitude, flatMagnitude, hint, hunits, hfrac]
  have hlimit : magnitudeLimit a p.neg = magnitudeLimit b q.neg := by
    rw [magnitudeLimit, magnitudeLimit, hsigned, hwidth, hneg]
  rw [flatValue, flatValue, hmagnitude, hlimit, hwidth, hneg]

/-- In DONE the ports are STATUS and RESULT. -/
theorem outputs_congr_of_done {s t : State} (hs : s.phase = .done) (ht : t.phase = .done)
    (h : (s.status, s.result) = (t.status, t.result)) : outputs s = outputs t := by
  obtain ⟨hstatus, hresult⟩ := Prod.mk.inj h
  simp only [outputs, busyOut, doneOut, hs, ht, hstatus, hresult]

/-- Settles O26. -/
theorem powerOfTwoBasesAgree : Obligations.PowerOfTwoBasesAgree := by
  intro a b s u p q ha hb hsigned hwidth hfrac hlegal hs hu hslen hulen hp hq hratio
  obtain ⟨t, hrun, hdone, hvalue, hfraction⟩ := runOperation_of_literal hs hlegal hslen hp
  obtain ⟨v, hrun', hdone', hvalue', hfraction'⟩ := runOperation_of_literal hu (hfrac ▸ hwidth ▸ hlegal) hulen hq
  have hunits : fractionUnits a.base a.frac (p.frac.map digitValue)
      = fractionUnits b.base b.frac (q.frac.map digitValue) := hfrac ▸ fractionUnits_congr ha hb hratio a.frac
  rw [hunits, hfrac, ← hfraction'] at hfraction
  obtain ⟨hfield, hcarry⟩ := Fraction.mk.inj hfraction
  refine ⟨t, v, hrun, hrun', hfield, hcarry, fun hneg hint => outputs_congr_of_done hdone hdone' ?_⟩
  rw [hvalue, hvalue', flatValue_congr hsigned hwidth hfrac hneg hint hunits]

end Sys2Proof.Machine

/-! The double-width unit on its own (42_decimal_fraction.md R154 to R156, R159): the rules of its operations on naturals,
read at the statements' inputs. -/

namespace Sys2Proof.Machine

/-- Settles O34. -/
theorem wideMulIsExact : Obligations.WideMulIsExact := pairNat_wideMul

/-- Settles O37. -/
theorem pairPrimitivesAreArithmetic : Obligations.PairPrimitivesAreArithmetic := fun a b n =>
  ⟨pairNat_pairAdd, pairNat_pairShl, pairNat_pairShr a n, pairGe_iff a b⟩

/-- The quotient of a pair fits u128 because its high half is below the divisor (R155). -/
theorem pair_div_lt {nh dv : Nat} (nl : U128) (h : nh < dv) : (nh * 2 ^ 128 + nl.toNat) / dv < 2 ^ 128 := by
  rw [Nat.div_lt_iff_lt_mul (Nat.zero_lt_of_lt h)]
  have hnl := nl.isLt
  omega

theorem wideDiv_eq_none {nh nl dv : U128} (h : dv.toNat ≤ nh.toNat) : wideDiv nh nl dv = none :=
  if_neg fun hpre => absurd hpre.2 (not_lt.mpr h)

/-- Settles O35. -/
theorem wideDivQuotientUnderPrecondition : Obligations.WideDivQuotientUnderPrecondition := by
  refine fun nh nl dv => ⟨fun hpre => ⟨_, wideDiv_eq_some hpre, ?_⟩, wideDiv_eq_none⟩
  rw [BitVec.toNat_ofNat, Nat.mod_eq_of_lt (pair_div_lt nl hpre)]

/-- `x × y < y × 2^128`, so a product meets wide_div's precondition for its factor y (R159). -/
theorem wideMul_hi_lt (x : U128) {y : U128} (hy : 0 < y.toNat) : (wideMul x y).hi.toNat < y.toNat := by
  have hproduct := pairNat_wideMul x y
  have hbound : x.toNat * y.toNat < 2 ^ 128 * y.toNat := Nat.mul_lt_mul_of_pos_right x.isLt hy
  unfold pairNat at hproduct
  omega

/-- Settles O36. -/
theorem wideDivUndoesWideMul : Obligations.WideDivUndoesWideMul := by
  intro x y hne
  have hy : 0 < y.toNat := Nat.pos_of_ne_zero fun h => hne (BitVec.eq_of_toNat_eq h)
  have hhi := wideMul_hi_lt x hy
  refine ⟨hhi, ?_⟩
  rw [wideDiv_eq_some hhi, ← pairNat, pairNat_wideMul, Nat.mul_div_cancel _ hy, BitVec.ofNat_toNat, BitVec.setWidth_eq]

end Sys2Proof.Machine

/-! The decimal converter on its own (42_decimal_fraction.md R144 to R158): its answer is the half-up round of the captured
digits, it reads no digit past the limit whatever that digit is, and no value on the way leaves the 2w-bit datapath. -/

namespace Sys2Proof.Machine

/-- Settles O29. -/
theorem decimalFractionRoundsTheCapturedDigits : Obligations.DecimalFractionRoundsTheCapturedDigits :=
  fun _ _ _ hfits hdigits => decimalFraction_isFractionOf hfits hdigits

/-- Settles O30. -/
theorem wideDatapathComputesTheFormula : Obligations.WideDatapathComputesTheFormula :=
  fun _ _ hfits hdigits => decimalWide_eq_decimalNarrow hfits hdigits

/-! ## The digits past the limit -/

theorem firstDigits_take {k m : Nat} (h : k ≤ m) (digits : List Nat) :
    firstDigits k (digits.take m) = firstDigits k digits := by
  have hpad : k - min m digits.length = k - digits.length := by omega
  rw [firstDigits, firstDigits, List.take_take, min_eq_left h, List.length_take, hpad]

theorem capture_take {k m : Nat} (h : k ≤ m) (digits : List Nat) : capture k (digits.take m) = capture k digits := by
  rw [capture_eq, capture_eq, firstDigits_take h]

theorem decimalNarrow_take (w : Width) (f : Nat) (digits : List Nat) :
    decimalNarrow w f (digits.take (romRead w).k) = decimalNarrow w f digits := by
  simp only [decimalNarrow, capture_take le_rfl]

/-- The two chunks are the digits before 54, so neither reads past the limit (R147, R148). -/
theorem decimalWide_take (f : Nat) (digits : List Nat) :
    decimalWide f (digits.take (romRead .w128).k) = decimalWide f digits := by
  have hfirst : capture 27 (digits.take (romRead .w128).k) = capture 27 digits := capture_take (by decide) digits
  have hsecond : capture 27 ((digits.take (romRead .w128).k).drop 27) = capture 27 (digits.drop 27) := by
    rw [List.drop_take]; exact capture_take (by decide) _
  simp only [decimalWide, hfirst, hsecond]

/-- DECIMAL_FRACTION reads the first k(FW(F)) digits only (R147). -/
theorem decimalFraction_take {total : Width} {f : Nat} (hf : f ≤ total.bits) (digits : List Nat) :
    decimalFraction total f (digits.take (digitLimit f)) = decimalFraction total f digits := by
  rw [decimalFraction, decimalFraction, digitLimit, delegationEndsAtTheSmallestWidth total f hf]
  cases smallestWidth f with
  | w128 => exact decimalWide_take f digits
  | w8 | w16 | w32 | w64 => exact congrArg some (decimalNarrow_take _ f digits)

/-- Settles O31. -/
theorem digitsPastTheLimitAreIgnored : Obligations.DigitsPastTheLimitAreIgnored := by
  intro total f digits later hf hlength
  rw [← decimalFraction_take hf, List.take_left' hlength]

/-! ## Zero digits -/

theorem digitsValue_eq_zero {r : Nat} {digits : List Nat} (h : ∀ v ∈ digits, v = 0) : digitsValue r digits = 0 := by
  induction digits with
  | nil => rfl
  | cons v rest ih =>
    obtain ⟨hv, hrest⟩ := List.forall_mem_cons.mp h
    rw [digitsValue_cons, hv, ih hrest, Nat.zero_mul]

theorem roundHalfUp_zero {d : Nat} (hd : 0 < d) : roundHalfUp 0 d = 0 := by
  rw [roundHalfUp]; exact Nat.div_eq_of_lt (by omega)

theorem firstDigits_eq_zero {k : Nat} {digits : List Nat} (h : ∀ v ∈ digits.take k, v = 0) :
    ∀ v ∈ firstDigits k digits, v = 0 := by
  intro v hv
  rcases List.mem_append.mp hv with hread | hpad
  · exact h v hread
  · exact List.eq_of_mem_replicate hpad

/-- Settles O32: only the captured digits count, and 0 rounds to 0 units. -/
theorem zeroDecimalFractionIsZero : Obligations.ZeroDecimalFractionIsZero := by
  intro total f digits hf hzero
  have hdigits : ∀ v ∈ digits.take (digitLimit f), v < 10 := fun v hv => by rw [hzero v hv]; decide
  rw [← decimalFraction_take hf, decimalFraction_eq hf hdigits, firstDigits_take le_rfl,
    digitsValue_eq_zero (firstDigits_eq_zero hzero), Nat.zero_mul, roundHalfUp_zero (by positivity),
    fractionOfUnits_of_lt (Nat.two_pow_pos f)]
  rfl

/-! ## The range of the datapath -/

/-- k is chosen so that D has w bits (R142). -/
theorem romRead_d_lt (w : Width) : (romRead w).d < 2 ^ w.bits := by cases w <;> decide

/-- The bound of the pre-shifted digits is D × 2^w: SH trades the factor 2^k of 10^k for 2 × 2^w (R157). -/
theorem ten_pow_mul_preShift (w : Width) :
    10 ^ (romRead w).k * 2 ^ (w.bits - (romRead w).k + 1) = (romRead w).d * 2 ^ w.bits := by
  have hk := romRead_k_le w
  have hpow : 2 ^ (romRead w).k * 2 ^ (w.bits - (romRead w).k + 1) = 2 * 2 ^ w.bits := by
    rw [← Nat.pow_add, ← Nat.pow_succ']; exact congrArg _ (by omega)
  rw [romRead_d, show 10 = 5 * 2 from rfl, Nat.mul_pow, Nat.mul_assoc, hpow]
  ring

theorem capture_preShift_lt {w : Width} {digits : List Nat} (hdigits : ∀ v ∈ digits, v < 10) :
    capture (romRead w).k digits <<< (romRead w).sh < (romRead w).d * 2 ^ w.bits := by
  rw [romRead_sh, Nat.shiftLeft_eq, ← ten_pow_mul_preShift]
  exact Nat.mul_lt_mul_of_pos_right (capture_lt hdigits) (Nat.two_pow_pos _)

/-- The rounded value's bound fits 2w bits: D is below 2^w, and the rounding term 5^k is below D (R157). -/
theorem datapath_bound_lt (w : Width) : (romRead w).d * 2 ^ w.bits + 5 ^ (romRead w).k < 2 ^ (2 * w.bits) := by
  have hd := romRead_d_lt w
  have hhalf : 5 ^ (romRead w).k < 2 ^ w.bits := by rw [romRead_d] at hd; omega
  calc (romRead w).d * 2 ^ w.bits + 5 ^ (romRead w).k < (romRead w).d * 2 ^ w.bits + 2 ^ w.bits :=
        Nat.add_lt_add_left hhalf _
    _ = ((romRead w).d + 1) * 2 ^ w.bits := (Nat.succ_mul _ _).symm
    _ ≤ 2 ^ w.bits * 2 ^ w.bits := Nat.mul_le_mul_right _ hd
    _ = 2 ^ (2 * w.bits) := by rw [Nat.two_mul, Nat.pow_add]

/-- Settles O33. -/
theorem decimalDatapathInRange : Obligations.DecimalDatapathInRange := by
  refine ⟨fun w f digits hf hdigits => ?_, by decide, by decide⟩
  intro row sh rr
  have hpre : capture row.k digits <<< row.sh < row.d * 2 ^ w.bits := capture_preShift_lt hdigits
  have hbound : row.d * 2 ^ w.bits + 5 ^ row.k < 2 ^ (2 * w.bits) := datapath_bound_lt w
  have hsh : sh ≤ capture row.k digits <<< row.sh := Nat.shiftRight_le _ _
  have hrr : rr = sh + 5 ^ row.k := congrArg (sh + ·) (romRead_hd w)
  have hd : 0 < row.d := Nat.pos_of_mul_pos_right (Nat.zero_lt_of_lt hpre)
  refine ⟨(ten_pow_mul_preShift w).symm ▸ hpre, ten_pow_mul_preShift w, by omega, by omega, by omega, hbound,
    fun hnocarry => ⟨?_, Nat.pow_le_pow_right (by decide) hf⟩⟩
  exact not_le.mp fun hunit => absurd ((carry_test_iff hd).mpr hunit) (not_le.mpr hnocarry)

end Sys2Proof.Machine

/-! The integer converter as the obligation states it (43_integer_converter.md R178). -/

namespace Sys2Proof.Machine

/-- Settles O38: the two clauses are the two branches of `integerConvert_eq`, which needs no premise on F. -/
theorem integerConverterFlatForm : Obligations.IntegerConverterFlatForm := by
  intro op carry digits _ hdigits
  rw [integerConvert_eq hdigits]
  exact ⟨fun hover => if_pos hover, fun hfits => if_neg (not_le.mpr hfits)⟩

end Sys2Proof.Machine

/-! Phase ASSEMBLE of a signed layout (44_assembler.md R190 to R193). The pattern of a magnitude within its sign's bound is
congruent to the signed magnitude modulo 2^W and that number lies in the W-bit range, so it is what the pattern reads as. -/

namespace Sys2Proof.Machine

/-! ## The signed pattern -/

theorem two_mul_half_range (w : Width) : 2 * 2 ^ (w.bits - 1) = 2 ^ w.bits := by cases w <;> decide

theorem rawPattern_lt {w : Width} {neg : Bool} {m : Nat} (hm : m < 2 ^ w.bits) : rawPattern w neg m < 2 ^ w.bits := by
  cases neg with
  | false => exact hm
  | true => exact Nat.mod_lt _ (Nat.two_pow_pos _)

/-- A pattern is narrow enough for RESULT. -/
theorem rawPattern_toNat {w : Width} {neg : Bool} {m : Nat} (hm : m < 2 ^ w.bits) :
    (BitVec.ofNat 128 (rawPattern w neg m)).toNat = rawPattern w neg m := by
  rw [BitVec.toNat_ofNat, Nat.mod_eq_of_lt]
  exact (rawPattern_lt hm).trans_le (Nat.pow_le_pow_right (by decide) (width_bits_le_128 w))

/-- Negation wraps at 2^W: modulo 2^W the pattern is the signed magnitude (R193). -/
theorem rawPattern_bmod_width {w : Width} {neg : Bool} {m : Nat} (hm : m ≤ 2 ^ w.bits) :
    (rawPattern w neg m : Int).bmod (2 ^ w.bits) = (if neg then -(m : Int) else m).bmod (2 ^ w.bits) := by
  cases neg with
  | false => rfl
  | true =>
    simp only [rawPattern, if_true]
    rw [Int.natCast_emod, Int.emod_bmod, Nat.cast_sub hm, Int.sub_bmod_left]

/-- Within its bound a signed magnitude is its own representative modulo 2^W (R192). -/
theorem signed_bmod_width {w : Width} {neg : Bool} {m : Nat} (hm : m ≤ signedBound w neg) :
    (if neg then -(m : Int) else m).bmod (2 ^ w.bits) = if neg then -(m : Int) else m := by
  have hhalf := two_mul_half_range w
  have hpos := Nat.two_pow_pos w.bits
  cases neg with
  | false =>
    have hm : m ≤ 2 ^ (w.bits - 1) - 1 := hm
    exact Int.bmod_eq_of_le_mul_two (x := (m : Int)) (by omega) (by omega)
  | true =>
    have hm : m ≤ 2 ^ (w.bits - 1) := hm
    exact Int.bmod_eq_of_le_mul_two (x := -(m : Int)) (by omega) (by omega)

/-! ## The stage -/

theorem assembleStage_mag (op : Operation) (s : State) : (assembleStage op s).mag = s.intField ||| s.fracField := by
  rcases assembleStage_cases op s with ⟨out, -, hstage⟩ | ⟨-, hstage⟩ <;> rw [hstage] <;> rfl

/-- A signed layout answers the pattern of every magnitude up to the bound, and Overflow above it (R192, R193). -/
theorem applySign_of_signed {op : Operation} (hsigned : op.signed = true) (neg : Bool) (mag : U128) :
    applySign op neg mag
      = if signedBound op.width neg < mag.toNat then none
        else some (BitVec.ofNat 128 (rawPattern op.width neg mag.toNat)) := by
  cases neg <;> simp [applySign, rawPattern, hsigned]

theorem assembleStage_of_signed_over {op : Operation} {s : State} (hsigned : op.signed = true)
    (hover : signedBound op.width s.neg < (s.intField ||| s.fracField).toNat) :
    assembleStage op s = raiseError .overflow (setMag (s.intField ||| s.fracField) s) := by
  rcases assembleStage_cases op s with ⟨out, hout, -⟩ | ⟨-, hstage⟩
  · rw [applySign_of_signed hsigned, if_pos hover] at hout
    cases hout
  · exact hstage

theorem assembleStage_of_signed_within {op : Operation} {s : State} (hsigned : op.signed = true)
    (hfits : (s.intField ||| s.fracField).toNat ≤ signedBound op.width s.neg) :
    assembleStage op s
      = deliver (BitVec.ofNat 128 (rawPattern op.width s.neg (s.intField ||| s.fracField).toNat))
          (setMag (s.intField ||| s.fracField) s) := by
  have hsign := applySign_of_signed hsigned s.neg (s.intField ||| s.fracField)
  rw [if_neg (not_lt.mpr hfits)] at hsign
  rcases assembleStage_cases op s with ⟨out, hout, hstage⟩ | ⟨hnone, -⟩
  · rw [hstage, Option.some.inj (hsign.symm.trans hout)]
  · cases hsign.symm.trans hnone

/-- Settles O39. -/
theorem signedBoundAndNegation : Obligations.SignedBoundAndNegation := by
  intro op s hsigned m bound t
  refine ⟨assembleStage_mag op s, fun hover => ?_, fun hfits => ?_⟩
  · simp only [t, assembleStage_of_signed_over hsigned hover]
    rfl
  · have hlimit : signedBound op.width s.neg < 2 ^ op.width.bits := by
      simpa [magnitudeLimit, hsigned] using magnitudeLimit_lt op s.neg
    have hm : m < 2 ^ op.width.bits := lt_of_le_of_lt hfits hlimit
    have hresult : t.result.toNat = rawPattern op.width s.neg m := by
      simp only [t, assembleStage_of_signed_within hsigned hfits, deliver_result, rawPattern_toNat hm, m]
    refine ⟨(assembleStage_keeps op s).1, ?_, hresult, ?_⟩
    · simp only [t, assembleStage_of_signed_within hsigned hfits, deliver_status]
    · rw [BitVec.toInt_setWidth, hresult, rawPattern_bmod_width hm.le, signed_bmod_width hfits]

end Sys2Proof.Machine

/-! Overflow as one condition (44_assembler.md R195). A literal's run ends in its flat outcome with the rounded fraction still
in FRAC_FIELD and CARRY, so the flat limit can be read in those registers; and a magnitude whose integer part passes IB bits is
past every limit of the layout. -/

namespace Sys2Proof.Machine

/-- The parts that are split off are those of a literal (R81). -/
theorem isLiteral_of_splitLiteral {base : Base} {negOk : Bool} {text : List Byte} {p : Parts}
    (h : splitLiteral base negOk text = .ok p) : IsLiteral base negOk text p := by
  rcases tokenize_follows_splitLiteral base negOk text with ⟨e, herror, -⟩ | ⟨q, r, sign, tail, hok, -, hrecord⟩
  · cases h.symm.trans herror
  · obtain rfl : p = q := Except.ok.inj (h.symm.trans hok)
    exact hrecord.isLiteral

/-- Digits after the point round to at most one whole unit (R128, R146). -/
theorem fractionUnits_le {base : Base} {digits : List Nat} (f : Nat) (hdigits : ∀ v ∈ digits, v < base.radix) :
    fractionUnits base f digits ≤ 2 ^ f := by
  cases base with
  | b10 =>
    have hlt := digitsValue_lt (firstDigits_lt_ten (k := digitLimit f) hdigits)
    rw [length_firstDigits] at hlt
    exact roundHalfUp_le (by positivity) (Nat.mul_le_mul_right _ hlt.le)
  | b2 | b8 | b16 =>
    exact roundHalfUp_le (Nat.pow_pos (Base.radix_pos _)) (Nat.mul_le_mul_right _ (digitsValue_lt hdigits).le)

/-- The flat limit is passed exactly on R195's reduced condition: the integer part needs more than IB bits, or the layout is
signed and the magnitude is above its sign's bound. -/
theorem magnitudeLimit_lt_iff {op : Operation} {neg : Bool} {n field : Nat} (hfrac : op.frac ≤ op.width.bits)
    (hfield : field < 2 ^ op.frac) :
    magnitudeLimit op neg < n * 2 ^ op.frac + field
      ↔ 2 ^ op.intBits ≤ n ∨ (op.signed = true ∧ signedBound op.width neg < n * 2 ^ op.frac + field) := by
  rw [← two_pow_width_le_iff hfrac hfield]
  have hlimit := magnitudeLimit_lt op neg
  cases hsigned : op.signed with
  | true =>
    simp only [magnitudeLimit, hsigned, if_true, true_and] at hlimit ⊢
    omega
  | false =>
    simp only [magnitudeLimit, hsigned, Bool.false_eq_true, if_false, false_and, or_false] at hlimit ⊢
    omega

theorem flatValue_overflow_iff (op : Operation) (p : Parts) :
    (flatValue op p).1 = .error .overflow ↔ magnitudeLimit op p.neg < flatMagnitude op p := by
  rw [flatValue]
  split
  case isTrue hover => exact iff_of_true rfl hover
  case isFalse hfits => exact iff_of_false nofun hfits

/-- A literal's run reports Overflow exactly on R195's reduced condition, read in the registers it leaves. -/
theorem runOperation_overflow_iff {op : Operation} {s : State} {p : Parts} (hphase : s.phase = .tokenize)
    (hfrac : op.frac ≤ op.width.bits) (hlen : s.len.toNat ≤ Config.textMaxLen)
    (hsplit : splitLiteral op.base op.signed (literalBytes s) = .ok p) :
    ∃ t, runOperation op s = .next t
      ∧ (t.status = .error .overflow ↔
          2 ^ op.intBits ≤ spanValue op.base p.int + carryUnit t.carry
          ∨ (op.signed = true ∧ signedBound op.width p.neg
              < (spanValue op.base p.int + carryUnit t.carry) * 2 ^ op.frac + t.fracField.toNat)) := by
  obtain ⟨t, hrun, -, hvalue, hfraction⟩ := runOperation_of_literal hphase hfrac hlen hsplit
  refine ⟨t, hrun, ?_⟩
  have hfrac128 := hfrac.trans (width_bits_le_128 op.width)
  obtain ⟨-, -, -, -, -, -, hdigits, -⟩ := isLiteral_of_splitLiteral hsplit
  have hround := fractionOfUnits_isFractionOf (fractionUnits_le op.frac (map_digitValue_lt_radix hdigits))
  rw [← hfraction] at hround
  obtain ⟨-, hfield, -⟩ := hround.registers hfrac128
  rw [← magnitudeLimit_lt_iff hfrac hfield, ← flatMagnitude_eq_of_isFractionOf hfrac128 hround,
    ← flatValue_overflow_iff, ← hvalue]

/-- Settles O45: each of the eight operations is the run of its layout. -/
theorem overflowExactlyOutOfRange : Obligations.OverflowExactlyOutOfRange := by
  intro i s p habout hsplit
  have hfrac : (operationOf i).frac ≤ (operationOf i).width.bits := by simpa using habout.frac_legal
  rw [exec_eq_runOperation, ← operationOf_width, ← operationOf_frac]
  exact runOperation_overflow_iff habout.phase hfrac habout.len_legal hsplit

end Sys2Proof.Machine

/-! The eight operations (45_operations.md R211 to R219). Each is the run of its layout, and from the beginning of TOKENIZE a
run ends in DONE with the flat outcome of its literal, an error of the tokenizer included. -/

namespace Sys2Proof.Machine

/-- The layout's run on a legal request is Decode (R211), and leaves what the stages do not own as it was. -/
theorem runOperation_endsWith_flatOutcome {op : Operation} {s : State} (hphase : s.phase = .tokenize)
    (hfrac : op.frac ≤ op.width.bits) (hlen : s.len.toNat ≤ Config.textMaxLen) :
    EndsWith (runOperation op s) s (flatOutcome op (literalBytes s)) := by
  have hlegal := runOperation_legal (by rw [hphase]; rfl) hfrac hlen
  cases hsplit : splitLiteral op.base op.signed (literalBytes s) with
  | error e =>
    rcases runToDone_of_tokenize hphase hfrac with ⟨e', herror, hrun⟩ | ⟨p, r, sign, tail, fr, hok, -⟩
    · obtain rfl := Except.error.inj (hsplit.symm.trans herror)
      simp only [flatOutcome, hsplit]
      exact ⟨_, hlegal.trans hrun, rfl, rfl, rfl, runToDone_sameRequest hrun⟩
    · cases hsplit.symm.trans hok
  | ok p =>
    obtain ⟨t, hrun, hdone, hvalue, -⟩ := runOperation_of_literal hphase hfrac hlen hsplit
    obtain ⟨hstatus, hresult⟩ := Prod.mk.inj hvalue
    simp only [flatOutcome, hsplit]
    exact ⟨t, hrun, hdone, hstatus, hresult, runToDone_sameRequest (hlegal.symm.trans hrun)⟩

theorem AboutToRun.endsWith {w : Width} {f : BitVec 8} {s : State} (h : AboutToRun w f s) {i : Instr}
    (hwidth : i.width = w) (hfrac : i.frac = f) :
    EndsWith (exec i s) s (flatOutcome (operationOf i) (literalBytes s)) := by
  subst hwidth hfrac
  rw [exec_eq_runOperation]
  exact runOperation_endsWith_flatOutcome h.phase (by simpa using h.frac_legal) h.len_legal

/-- Settles O40. -/
theorem unsignedPowerOfTwoParsesCompute : Obligations.UnsignedPowerOfTwoParsesCompute := fun w f _ h =>
  ⟨h.endsWith (i := .parseUB2 w f) rfl rfl, h.endsWith (i := .parseUB8 w f) rfl rfl,
    h.endsWith (i := .parseUB16 w f) rfl rfl⟩

/-- Settles O41. -/
theorem unsignedDecimalParseComputes : Obligations.UnsignedDecimalParseComputes := fun w f _ h =>
  h.endsWith (i := .parseUB10 w f) rfl rfl

/-- Settles O42. -/
theorem signedPowerOfTwoParsesCompute : Obligations.SignedPowerOfTwoParsesCompute := fun w f _ h =>
  ⟨h.endsWith (i := .parseSB2 w f) rfl rfl, h.endsWith (i := .parseSB8 w f) rfl rfl,
    h.endsWith (i := .parseSB16 w f) rfl rfl⟩

/-- Settles O43. -/
theorem signedDecimalParseComputes : Obligations.SignedDecimalParseComputes := fun w f _ h =>
  h.endsWith (i := .parseSB10 w f) rfl rfl

end Sys2Proof.Machine

/-! The edge of an accepted start and the edges of a running transaction, each as the one update it is (45_operations.md
R221). -/

namespace Sys2Proof.Machine

/-! ## The accepted start -/

/-- The write port looks at nothing an edge's bookkeeping changes. -/
theorem writePort_nextEdge (p : PortIn) (s : State) : writePort p (nextEdge s) = nextEdge (writePort p s) := by
  rw [writePort, writePort, nextEdge_phase, apply_ite nextEdge]; rfl

theorem writePort_inputs (p : PortIn) (s : State) : (writePort p s).inputs = s.inputs := by
  rcases writePort_cases p s with ⟨-, -, -, he⟩ | ⟨-, he⟩ <;> rw [he]
  rfl

/-- What a legal start leaves: the request latched behind the same edge's TEXT write, and LATENCY edges to come. -/
def startedTransaction (p : PortIn) (s : State) : State :=
  beginTransaction (Config.latency p.cmdIn p.lenIn (textPrefix (writePort p s) p.lenIn.toNat))
    (latchRequest p (nextEdge (writePort p s)))

section Start

variable {s : State} {p : PortIn} {rest : List PortIn}

theorem step_of_start (hinputs : s.inputs = p :: rest) (hrest : s.phase.isBusy = false) (hreset : p.rst = false)
    (hstart : p.start = true) : step s = .next (acceptStart p (nextEdge (writePort p s))) := by
  rw [step_of_rest hinputs hreset hrest, restEdge_of_start hstart, writePort_nextEdge]

theorem step_of_legal_start (hinputs : s.inputs = p :: rest) (hrest : s.phase.isBusy = false) (hreset : p.rst = false)
    (hstart : p.start = true) (hlegal : cmdLegal p.cmdIn p.lenIn = true) :
    step s = .next (startedTransaction p s) := by
  rw [step_of_start hinputs hrest hreset hstart, acceptStart_of_legal hlegal]; rfl

theorem startedTransaction_inputs (hinputs : s.inputs = p :: rest) : (startedTransaction p s).inputs = rest := by
  have htail : (startedTransaction p s).inputs = (writePort p s).inputs.tail := rfl
  rw [htail, writePort_inputs, hinputs, List.tail_cons]

/-- The running request's literal is TEXT as the write port left it (R51). -/
theorem literalBytes_startedTransaction (p : PortIn) (s : State) :
    literalBytes (startedTransaction p s) = textPrefix (writePort p s) p.lenIn.toNat := rfl

end Start

/-- Settles O11. -/
theorem legalStartBeginsATransaction : Obligations.LegalStartBeginsATransaction :=
  fun _ _ _ hinputs hrest hreset hstart hlegal =>
    ⟨_, step_of_legal_start hinputs hrest hreset hstart hlegal, rfl, rfl, rfl, rfl, rfl, rfl, latency_pos _ _ _, rfl,
      startedTransaction_inputs hinputs⟩

/-! ## An edge of a running transaction -/

theorem step_eq_busyEdge {s : State} (hreset : (currentInput s).rst = false) (hbusy : s.phase.isBusy = true) :
    step s = busyEdge (nextEdge s) := by
  rcases clockEdge_cases s with ⟨h, -⟩ | ⟨-, -, hedge⟩ | ⟨-, h, -⟩ | ⟨-, h, -⟩
  · simp [hreset] at h
  · exact hedge
  · simp [hbusy] at h
  · simp [hbusy] at h

section Busy

variable {s : State} {i : Instr}

theorem busyEdge_of_last (hdecode : decode s.cmd = .instr i) (hleft : s.busyLeft ≤ 1) :
    busyEdge s = exec i (setBusyLeft 0 s) := by
  simp only [busyEdge, hdecode, hleft, if_true]

theorem busyEdge_of_earlier (hdecode : decode s.cmd = .instr i) (hleft : 2 ≤ s.busyLeft) :
    busyEdge s = holdEdge (operationOf i) (setBusyLeft (s.busyLeft - 1) s) := by
  simp only [busyEdge, hdecode, show ¬ s.busyLeft ≤ 1 by omega, if_false]

theorem cmd_ofNat_mod (w : Nat) : BitVec.ofNat 16 (w % 2 ^ 16) = BitVec.ofNat 16 w :=
  BitVec.eq_of_toNat_eq (by simp)

theorem decodeTableWord_eq_some {w : Nat} (h : decodeTableWord 16 w = some i) :
    decode (BitVec.ofNat 16 w) = .instr i := by
  rw [decodeTableWord, cmd_ofNat_mod] at h
  cases hdecode : decode (BitVec.ofNat 16 w) with
  | instr j => simp only [hdecode, Option.some.injEq] at h; rw [h]
  | illegal why => simp [hdecode] at h

end Busy

/-- Settles O16: a placed descriptor stands at the last edge of its LATENCY. -/
theorem stepRunsTheDecodedOperation : Obligations.StepRunsTheDecodedOperation := by
  refine ⟨fun s i hbusy hreset hdecode => ?_, fun s w i hword => ?_⟩
  · rw [step_eq_busyEdge hreset hbusy]
    exact ⟨busyEdge_of_last (s := nextEdge s) hdecode, busyEdge_of_earlier (s := nextEdge s) hdecode⟩
  · have hedge := busyEdge_of_last (s := nextEdge (placeCommand s (BitVec.ofNat 16 w))) (decodeTableWord_eq_some hword)
      (Nat.le_refl _)
    rw [State.withFetchWord, cmd_ofNat_mod, step_eq_busyEdge rfl rfl, hedge]
    rfl

end Sys2Proof.Machine

/-! A transaction edge by edge (45_operations.md R221; 70_reset_and_hazards.md R275 to R279). The outcome that the stages still
to come will deliver is fixed at the accepting edge: a stage taken early does not change it, and neither do the inputs, the
countdown and the edge count, which no stage reads. -/

namespace Sys2Proof.Machine

/-! ## What no stage reads -/

/-- The same registers and TEXT, with other coming inputs, another countdown and another edge count. -/
def retime (inputs : List PortIn) (left tick : Nat) (s : State) : State :=
  { s with inputs := inputs, busyLeft := left, tick := tick }

section Retime

variable {op : Operation} {s t : State} (inputs : List PortIn) (left tick : Nat)

theorem literalBytes_retime : literalBytes (retime inputs left tick s) = literalBytes s := rfl

theorem tokenizeStage_retime :
    tokenizeStage op (retime inputs left tick s) = retime inputs left tick (tokenizeStage op s) := by
  rw [tokenizeStage, tokenizeStage, literalBytes_retime]
  cases tokenize op.base op.signed (literalBytes s) <;> rfl

theorem fractionStage_retime (h : fractionStage op s = .next t) :
    fractionStage op (retime inputs left tick s) = .next (retime inputs left tick t) := by
  obtain ⟨bytes, r, hspan, rfl, hconverter⟩ := fractionStage_cases h
  have hspan' : readSpan (retime inputs left tick s) (retime inputs left tick s).fracLo
    (retime inputs left tick s).fracHi = some bytes := hspan
  rcases hconverter with ⟨d, hselect, rfl⟩ | ⟨hselect, hr⟩
  · simp only [fractionStage, hspan', hselect]; rfl
  · simp only [fractionStage, hspan', hselect, hr]; rfl

theorem integerStage_retime (h : integerStage op s = .next t) :
    integerStage op (retime inputs left tick s) = .next (retime inputs left tick t) := by
  obtain ⟨bytes, hspan, hconverter⟩ := integerStage_cases h
  have hspan' : readSpan (retime inputs left tick s) (retime inputs left tick s).intLo
    (retime inputs left tick s).intHi = some bytes := hspan
  have hcarry : (retime inputs left tick s).carry = s.carry := rfl
  rcases hconverter with ⟨v, hv, rfl⟩ | ⟨hnone, rfl⟩
  · simp only [integerStage, hspan', hcarry, hv]; rfl
  · simp only [integerStage, hspan', hcarry, hnone]; rfl

theorem assembleStage_retime :
    assembleStage op (retime inputs left tick s) = retime inputs left tick (assembleStage op s) := by
  cases hsign : applySign op s.neg (s.intField ||| s.fracField) <;>
    simp only [assembleStage, setMag_neg, setMag_mag, retime, hsign] <;> rfl

/-- A stage goes by the registers and TEXT alone. -/
theorem runStage_retime (h : runStage op s = .next t) :
    runStage op (retime inputs left tick s) = .next (retime inputs left tick t) := by
  have hsame : (retime inputs left tick s).phase = s.phase := rfl
  cases hphase : s.phase with rw [hphase] at hsame
  | idle =>
    rw [runStage, hphase] at h
    rw [runStage, hsame, Host.Outcome.next.inj h]
  | tokenize =>
    rw [runStage_of_tokenize hphase] at h
    rw [runStage_of_tokenize hsame, tokenizeStage_retime, Host.Outcome.next.inj h]
  | fraction =>
    rw [runStage_of_fraction hphase] at h
    rw [runStage_of_fraction hsame, fractionStage_retime _ _ _ h]
  | integer =>
    rw [runStage_of_integer hphase] at h
    rw [runStage_of_integer hsame, integerStage_retime _ _ _ h]
  | assemble =>
    rw [runStage_of_assemble hphase] at h
    rw [runStage_of_assemble hsame, assembleStage_retime, Host.Outcome.next.inj h]
  | done =>
    rw [runStage_of_done hphase] at h
    rw [runStage_of_done hsame, Host.Outcome.next.inj h]

theorem runToDone_retime (h : runToDone op s = .next t) :
    runToDone op (retime inputs left tick s) = .next (retime inputs left tick t) := by
  obtain ⟨u, v, w, hu, hv, hw, ht⟩ := runToDone_eq_next.mp h
  exact runToDone_eq_next.mpr ⟨_, _, _, runStage_retime _ _ _ hu, runStage_retime _ _ _ hv, runStage_retime _ _ _ hw,
    runStage_retime _ _ _ ht⟩

end Retime

/-! ## The outcome to come -/

/-- The stages still to come deliver this outcome. -/
def Delivers (op : Operation) (outcome : Status × U128) (s : State) : Prop :=
  ∃ t, runToDone op s = .next t ∧ (t.status, t.result) = outcome

section Delivers

variable {op : Operation} {outcome : Status × U128} {s t : State}

theorem Delivers.retime (h : Delivers op outcome s) (inputs : List PortIn) (left tick : Nat) :
    Delivers op outcome (retime inputs left tick s) := by
  obtain ⟨t, hrun, hvalue⟩ := h
  exact ⟨_, runToDone_retime inputs left tick hrun, hvalue⟩

theorem Delivers.runStage_answers (h : Delivers op outcome s) : ∃ t, runStage op s = .next t := by
  obtain ⟨_, hrun, -⟩ := h
  obtain ⟨u, -, -, hu, -⟩ := runToDone_eq_next.mp hrun
  exact ⟨u, hu⟩

/-- A stage taken ahead changes nothing about the outcome: the run is in DONE after the four stages, and a fifth holds. -/
theorem Delivers.runStage (h : Delivers op outcome s) (hs : s.phase ≠ .idle) (hstage : Machine.runStage op s = .next t) :
    Delivers op outcome t := by
  obtain ⟨x, hrun, hvalue⟩ := h
  have hdone := runToDone_phase hs hrun
  obtain ⟨u, v, w, hu, hv, hw, hx⟩ := runToDone_eq_next.mp hrun
  obtain rfl := Host.Outcome.next.inj (hstage.symm.trans hu)
  exact ⟨x, runToDone_eq_next.mpr ⟨v, w, x, hv, hw, hx, runStage_of_done hdone⟩, hvalue⟩

end Delivers

/-! ## A running transaction -/

/-- A stage that does not enter DONE leaves STATUS and RESULT alone (R277). -/
theorem runStage_keeps_outputs {op : Operation} {s t : State} (h : runStage op s = .next t) (hopen : t.phase ≠ .done) :
    t.status = s.status ∧ t.result = s.result := by
  cases hphase : s.phase with
  | idle => rw [runStage, hphase] at h; exact Host.Outcome.next.inj h ▸ ⟨rfl, rfl⟩
  | tokenize =>
    rw [runStage_of_tokenize hphase] at h
    obtain rfl := Host.Outcome.next.inj h
    rcases tokenizeStage_cases op s with ⟨r, -, he⟩ | ⟨e, -, he⟩ <;> rw [he] at hopen ⊢
    · exact ⟨rfl, rfl⟩
    · exact absurd rfl hopen
  | fraction =>
    rw [runStage_of_fraction hphase] at h
    obtain ⟨_, r, -, rfl, -⟩ := fractionStage_cases h
    exact ⟨rfl, rfl⟩
  | integer =>
    rw [runStage_of_integer hphase] at h
    obtain ⟨_, -, ⟨v, -, rfl⟩ | ⟨-, rfl⟩⟩ := integerStage_cases h
    · exact ⟨rfl, rfl⟩
    · exact absurd rfl hopen
  | assemble =>
    rw [runStage_of_assemble hphase] at h
    obtain rfl := Host.Outcome.next.inj h
    exact absurd (assembleStage_keeps op s).1 hopen
  | done => rw [runStage_of_done hphase] at h; exact Host.Outcome.next.inj h ▸ ⟨rfl, rfl⟩

/-- A transaction of the operation `i` is running, its outputs are clear, and this outcome is to come. -/
structure Running (i : Instr) (outcome : Status × U128) (s : State) : Prop where
  decodes : decode s.cmd = .instr i
  legal : cmdLegal s.cmd s.len = true
  busy : s.phase.isBusy = true
  clear : s.status = .ok ∧ s.result = 0
  delivers : Delivers (operationOf i) outcome s

/-- The state whose next `n` edges are past: their inputs used up, the edges of LATENCY and the edge count moved on. -/
def elapse (n : Nat) (s : State) : State := retime (s.inputs.drop n) (s.busyLeft - n) (s.tick + n) s

section Elapse

variable {s t : State}

theorem elapse_elapse (m n : Nat) (s : State) : elapse n (elapse m s) = elapse (m + n) s := by
  simp only [elapse, retime, List.drop_drop, Nat.sub_sub, Nat.add_assoc]

theorem SameRequest.elapse (h : SameRequest s t) (n : Nat) : SameRequest (elapse n s) (elapse n t) :=
  ⟨h.cmd, h.len, h.text, h.cells, h.textDraw, congrArg (List.drop n) h.inputs, congrArg (· - n) h.busyLeft,
    congrArg (· + n) h.tick⟩

/-- A busy edge's bookkeeping. -/
theorem setBusyLeft_nextEdge (s : State) : setBusyLeft (s.busyLeft - 1) (nextEdge s) = elapse 1 s := by
  rw [elapse, List.drop_one]; rfl

end Elapse

section Running

variable {i : Instr} {outcome : Status × U128} {s t : State}

theorem Running.outputs (h : Running i outcome s) :
    outputs s = { busy := true, done := false, status := 0, result := 0 } := by
  obtain ⟨hstatus, hresult⟩ := h.clear
  simp only [Machine.outputs, busyOut, doneOut, h.busy, (s.phase.isBusy_iff.mp h.busy).2, hstatus, hresult, Status.code,
    decide_false]

theorem Running.elapse (h : Running i outcome s) (n : Nat) : Running i outcome (elapse n s) :=
  ⟨h.decodes, h.legal, h.busy, h.clear, h.delivers.retime _ _ _⟩

theorem Running.runStage (h : Running i outcome s) (hstage : runStage (operationOf i) s = .next t)
    (hopen : t.phase ≠ .done) : Running i outcome t := by
  have hsame := runStage_sameRequest hstage
  obtain ⟨hstatus, hresult⟩ := runStage_keeps_outputs hstage hopen
  have hidle := (s.phase.isBusy_iff.mp h.busy).1
  have hcode := runStage_code hidle hstage
  exact
    { decodes := hsame.cmd ▸ h.decodes
      legal := hsame.cmd ▸ hsame.len ▸ h.legal
      busy := t.phase.isBusy_iff.mpr ⟨t.phase.ne_idle_iff.mpr (by omega), hopen⟩
      clear := ⟨hstatus.trans h.clear.1, hresult.trans h.clear.2⟩
      delivers := h.delivers.runStage hidle hstage }

/-- Any number of stages short of DONE can be taken. -/
theorem Running.advance_answers (h : Running i outcome s) (n : Nat) :
    ∃ t, advance (operationOf i) n s = .next t ∧ Running i outcome t := by
  have hstage : ∀ s, Delivers (operationOf i) outcome s ∧ s.phase ≠ .idle →
      ∃ t, Machine.runStage (operationOf i) s = .next t ∧ Delivers (operationOf i) outcome t ∧ t.phase ≠ .idle := by
    rintro s ⟨hs, hidle⟩
    obtain ⟨t, hrun⟩ := hs.runStage_answers
    have hcode := runStage_code hidle hrun
    exact ⟨t, hrun, hs.runStage hidle hrun, t.phase.ne_idle_iff.mpr (by omega)⟩
  obtain ⟨t, hrun⟩ := Machine.advance_answers hstage n ⟨h.delivers, (s.phase.isBusy_iff.mp h.busy).1⟩
  exact ⟨t, hrun, advance_induction (fun _ _ hs hstep hopen => hs.runStage hstep hopen) h hrun⟩

/-- An edge before the last of LATENCY: the transaction is still running (R25). -/
theorem Running.step_earlier (h : Running i outcome s) (hreset : (currentInput s).rst = false) (hleft : 2 ≤ s.busyLeft) :
    ∃ t, step s = .next t ∧ Running i outcome t ∧ SameRequest (Machine.elapse 1 s) t := by
  obtain ⟨t, hrun, ht⟩ := (h.elapse 1).advance_answers (Config.stagesAtEdge (Machine.elapse 1 s).tick)
  have hlegal : operationLegal (operationOf i) (Machine.elapse 1 s).len = true :=
    operationLegal_of_cmdLegal h.decodes h.legal
  refine ⟨t, ?_, ht, advance_sameRequest hrun⟩
  rw [step_eq_busyEdge hreset h.busy, busyEdge_of_earlier (s := nextEdge s) h.decodes hleft, nextEdge_busyLeft,
    setBusyLeft_nextEdge, holdEdge, if_pos hlegal, hrun]

/-- The last edge of LATENCY: DONE, with the outcome (R221 step 5). -/
theorem Running.step_last (h : Running i outcome s) (hreset : (currentInput s).rst = false) (hleft : s.busyLeft = 1) :
    ∃ t, step s = .next t ∧ t.phase = .done ∧ (t.status, t.result) = outcome ∧ SameRequest (Machine.elapse 1 s) t := by
  have hlast := h.elapse 1
  obtain ⟨t, hrun, hvalue⟩ := hlast.delivers
  have hedge : setBusyLeft 0 (nextEdge s) = Machine.elapse 1 s := by rw [← setBusyLeft_nextEdge, hleft]
  have hdone := runToDone_phase ((Machine.elapse 1 s).phase.isBusy_iff.mp hlast.busy).1 hrun
  refine ⟨t, ?_, hdone, hvalue, runToDone_sameRequest hrun⟩
  rw [step_eq_busyEdge hreset h.busy, busyEdge_of_last (s := nextEdge s) h.decodes hleft.le, hedge,
    exec_legal hlast.busy (frac_le_of_decode h.decodes) (len_le_of_cmdLegal h.legal), hrun]

/-! ## All of its edges -/

theorem NoResetFor.now {n : Nat} (h : NoResetFor n s) (hn : 1 ≤ n) : (currentInput s).rst = false := by
  obtain ⟨m, rfl⟩ := Nat.exists_eq_add_of_le' hn
  rw [currentInput]
  cases hinputs : s.inputs with
  | nil => rfl
  | cons p rest => exact h p (by rw [hinputs]; exact List.mem_cons_self)

theorem NoResetFor.later {m n : Nat} (h : NoResetFor n s) (ht : t.inputs = s.inputs.drop m) :
    NoResetFor (n - m) t := by
  intro p hp
  rw [ht, ← List.drop_take] at hp
  exact h p (List.mem_of_mem_drop hp)

/-- Within LATENCY, whatever the pace, the transaction is running and its request stands. -/
theorem Running.run {n : Nat} (h : Running i outcome s) (hn : n < s.busyLeft) (hreset : NoResetFor s.busyLeft s) :
    ∃ t, Host.Core.run core n s = .next t ∧ Running i outcome t ∧ SameRequest (Machine.elapse n s) t := by
  induction n generalizing s with
  | zero => exact ⟨s, rfl, h, .refl s⟩
  | succ n ih =>
    obtain ⟨u, hstep, hu, hsame⟩ := h.step_earlier (hreset.now (by omega)) (by omega)
    have hleft : u.busyLeft = s.busyLeft - 1 := hsame.busyLeft
    obtain ⟨t, hrun, ht, hsame'⟩ := ih hu (by omega) (hleft ▸ hreset.later hsame.inputs)
    refine ⟨t, (run_of_step hstep n).trans hrun, ht, ?_⟩
    rw [Nat.add_comm, ← elapse_elapse]
    exact (hsame.elapse n).trans hsame'

/-- The edges of LATENCY end in DONE, with the outcome. -/
theorem Running.run_to_done (h : Running i outcome s) (hleft : 1 ≤ s.busyLeft) (hreset : NoResetFor s.busyLeft s) :
    ∃ t, Host.Core.run core s.busyLeft s = .next t ∧ t.phase = .done ∧ (t.status, t.result) = outcome
      ∧ SameRequest (Machine.elapse s.busyLeft s) t := by
  obtain ⟨n, hn⟩ := Nat.exists_eq_add_of_le' hleft
  obtain ⟨u, hrun, hu, hsame⟩ := h.run (n := n) (by omega) hreset
  have huleft : u.busyLeft = s.busyLeft - n := hsame.busyLeft
  obtain ⟨t, hstep, hdone, hvalue, hsame'⟩ :=
    hu.step_last (((huleft ▸ hreset.later hsame.inputs) : NoResetFor u.busyLeft u).now (by omega)) (by omega)
  rw [hn]
  refine ⟨t, (run_add hrun).trans (run_of_step hstep 0), hdone, hvalue, ?_⟩
  rw [← elapse_elapse]
  exact (hsame.elapse 1).trans hsame'

end Running

/-! ## From the accepting edge -/

/-- Decode of a legal request is its layout's flat outcome (R211). -/
theorem flatDecode_of_legal {cmd len : U16} {i : Instr} (hdecode : decode cmd = .instr i)
    (hlegal : cmdLegal cmd len = true) (text : List Byte) : flatDecode cmd len text = flatOutcome (operationOf i) text := by
  simp only [flatDecode, hdecode, len_le_of_cmdLegal hlegal, if_true]

theorem flatDecode_of_illegal {cmd len : U16} (hillegal : cmdLegal cmd len = false) (text : List Byte) :
    flatDecode cmd len text = (.error .configInvalid, 0) := by
  have hnot : ¬ (len.toNat ≤ Config.textMaxLen ∧ ∃ i, decode cmd = .instr i) := fun h => by
    simp [(legalExactlyWhenDecodable cmd len).mpr h] at hillegal
  rw [flatDecode]
  cases hdecode : decode cmd with
  | illegal why => rfl
  | instr i => exact if_neg fun hlen => hnot ⟨hlen, i, hdecode⟩

/-- At the beginning of TOKENIZE with clear outputs, Decode of the request is to come. -/
theorem running_of_tokenize {s : State} {i : Instr} (hphase : s.phase = .tokenize) (hdecode : decode s.cmd = .instr i)
    (hlegal : cmdLegal s.cmd s.len = true) (hclear : s.status = .ok ∧ s.result = 0) :
    Running i (flatDecode s.cmd s.len (literalBytes s)) s := by
  have hbusy : s.phase.isBusy = true := by rw [hphase]; rfl
  have hfrac : (operationOf i).frac ≤ (operationOf i).width.bits := by simpa using frac_le_of_decode hdecode
  have hlen := len_le_of_cmdLegal hlegal
  obtain ⟨t, hrun, -, hstatus, hresult, -⟩ := runOperation_endsWith_flatOutcome hphase hfrac hlen
  rw [runOperation_legal hbusy hfrac hlen] at hrun
  rw [flatDecode_of_legal hdecode hlegal]
  exact ⟨hdecode, hlegal, hbusy, hclear, t, hrun, Prod.ext hstatus hresult⟩

/-- A legal start begins a running transaction of Decode of the request as it then stands. -/
theorem running_startedTransaction {p : PortIn} (hlegal : cmdLegal p.cmdIn p.lenIn = true) (s : State) :
    ∃ i, Running i (flatDecode p.cmdIn p.lenIn (textPrefix (writePort p s) p.lenIn.toNat)) (startedTransaction p s) := by
  obtain ⟨-, i, hdecode⟩ := (legalExactlyWhenDecodable _ _).mp hlegal
  have hrunning := running_of_tokenize (s := startedTransaction p s) rfl hdecode hlegal ⟨rfl, rfl⟩
  rw [literalBytes_startedTransaction] at hrunning
  exact ⟨i, hrunning⟩

/-- Settles O51: the transaction that the accepting edge begins, run to its end. -/
theorem transactionDeliversDecode : Obligations.TransactionDeliversDecode := by
  intro s p rest hinputs hrest hreset hstart text latency
  refine ⟨fun hlegal hquiet => ?_, fun hillegal => ?_⟩
  · have hstep := step_of_legal_start hinputs hrest hreset hstart hlegal
    have hlater := startedTransaction_inputs hinputs
    obtain ⟨i, hrunning⟩ := running_startedTransaction hlegal s
    have hnoReset : NoResetFor (startedTransaction p s).busyLeft (startedTransaction p s) := by
      rw [NoResetFor, hlater]; exact hquiet
    refine ⟨fun n hn => ?_, ?_⟩
    · obtain ⟨u, hrun, hu, -⟩ := hrunning.run (n := n) hn hnoReset
      exact ⟨u, (run_of_step hstep n).trans hrun, hu.outputs⟩
    · obtain ⟨t, hrun, hdone, hvalue, hsame⟩ := hrunning.run_to_done (latency_pos _ _ _) hnoReset
      exact ⟨t, (run_of_step hstep _).trans hrun, hdone, hvalue, hsame.cmd, hsame.len, hsame.cells,
        hsame.inputs.trans (congrArg (List.drop latency) hlater)⟩
  · have hstep := step_of_start hinputs hrest hreset hstart
    rcases acceptStart_cases p (nextEdge (writePort p s)) with ⟨hlegal, -⟩ | ⟨-, he⟩
    · cases hillegal.symm.trans hlegal
    · rw [he] at hstep
      exact ⟨_, run_of_step hstep 0, rfl, (flatDecode_of_illegal hillegal text).symm⟩

end Sys2Proof.Machine

/-! Error entry (60_exceptions.md R240, R245, R247), and the accepted start that comes to it at its own edge. Before that
start's descriptor is looked at, only the write port has acted, and TEXT is all it can have changed. -/

namespace Sys2Proof.Machine

/-- The ports after error entry: DONE with RESULT 0 and the code of the kind. -/
theorem outputs_raiseError (e : ErrorKind) (s : State) :
    outputs (raiseError e s) = { busy := false, done := true, status := (Status.error e).code, result := 0 } := rfl

/-- Settles O18: the codes, kind by kind. -/
theorem errorEntryReportsTheCode : Obligations.ErrorEntryReportsTheCode := by
  refine fun e s => ⟨?_, raiseError_cmd s e, raiseError_len s e, raiseError_text s e⟩
  rw [outputs_raiseError]
  cases e <;> rfl

/-- The four causes of an illegal request (30_encoding.md R76; 60_exceptions.md R245). -/
theorem cmdLegal_eq_false_iff (cmd len : U16) :
    cmdLegal cmd len = false ↔
      cmdRsvd cmd ≠ 0 ∨ 5 ≤ (cmdWidth cmd).toNat ∨ 8 <<< (cmdWidth cmd).toNat < (cmdFrac cmd).toNat
        ∨ Config.textMaxLen < len.toNat := by
  rw [cmdLegal, decide_eq_false_iff_not, not_and_or, not_and_or, not_and_or, Nat.not_le, Nat.not_le, Nat.not_le]
  rfl

theorem acceptStart_of_illegal {p : PortIn} (h : cmdLegal p.cmdIn p.lenIn = false) (s : State) :
    acceptStart p s = raiseError .configInvalid (latchRequest p s) := by
  rw [acceptStart, h]; rfl

/-- The write port changes TEXT or nothing. -/
theorem writePort_eq_with_text (p : PortIn) (s : State) : writePort p s = { s with text := (writePort p s).text } := by
  rcases writePort_cases p s with ⟨-, -, -, he⟩ | ⟨-, he⟩ <;> rw [he]
  rfl

/-- What an illegal start leaves with `text` in TEXT: the request latched and ConfigInvalid raised. -/
def refusedStart (p : PortIn) (text : Memory) (s : State) : State :=
  raiseError .configInvalid (latchRequest p (nextEdge { s with text := text }))

theorem step_of_illegal_start {s : State} {p : PortIn} {rest : List PortIn} (hinputs : s.inputs = p :: rest)
    (hrest : s.phase.isBusy = false) (hreset : p.rst = false) (hstart : p.start = true)
    (hillegal : cmdLegal p.cmdIn p.lenIn = false) : step s = .next (refusedStart p (writePort p s).text s) := by
  rw [step_of_start hinputs hrest hreset hstart, acceptStart_of_illegal hillegal, refusedStart, ← writePort_eq_with_text]

/-- The same registers whatever TEXT held before the edge. -/
theorem refusedStart_of_other_text (p : PortIn) (text written other : Memory) (s : State) :
    { refusedStart p other { s with text := text } with text := written } = refusedStart p written s := rfl

/-- Settles O12: the edge is `refusedStart`, from this TEXT and from any other. -/
theorem illegalStartIsConfigInvalid : Obligations.IllegalStartIsConfigInvalid := by
  intro s p rest hinputs hrest hreset hstart hcause
  have hillegal := (cmdLegal_eq_false_iff p.cmdIn p.lenIn).mpr hcause
  refine ⟨_, step_of_illegal_start hinputs hrest hreset hstart hillegal, outputs_raiseError _ _, rfl, rfl, rfl, rfl,
    fun m => ⟨_, step_of_illegal_start (s := { s with text := m }) hinputs hrest hreset hstart hillegal, ?_⟩⟩
  exact refusedStart_of_other_text p m _ _ s

end Sys2Proof.Machine

/-! What an edge ignores (70_reset_and_hazards.md R270, R274, R276). A reset edge looks at no other input, and an edge of a
running transaction at no input but rst. -/

namespace Sys2Proof.Machine

section IgnoredInputs

variable {s : State} {p : PortIn} {rest : List PortIn}

/-- A reset edge, field by field: the registers of R39, and what R270 leaves alone. -/
theorem resetRegisters_nextEdge (hinputs : s.inputs = p :: rest) :
    resetRegisters (nextEdge s) = { State.reset with
      text := s.text, textDraw := s.textDraw, inputs := rest, tick := s.tick + 1 } := by
  rw [nextEdge, hinputs]; rfl

/-- While busy, inputs with the same rst make the same edge. -/
theorem step_busy_with_input (hinputs : s.inputs = p :: rest) (hbusy : s.phase.isBusy = true) {q : PortIn}
    (hrst : q.rst = p.rst) : step s = step { s with inputs := q :: rest } := by
  have hother : State.inputs { s with inputs := q :: rest } = q :: rest := rfl
  have hnext := nextEdge_with_input hinputs q
  cases hreset : p.rst with
  | true => rw [step_of_reset hinputs hreset, step_of_reset hother (hrst.trans hreset), hnext]
  | false => rw [step_of_busy hinputs hreset hbusy, step_of_busy hother (hrst.trans hreset) hbusy, hnext]

end IgnoredInputs

/-- Settles O9. -/
theorem resetEdgeRestoresEveryRegister : Obligations.ResetEdgeRestoresEveryRegister :=
  fun _ _ _ hinputs hreset => (step_of_reset hinputs hreset).trans (congrArg _ (resetRegisters_nextEdge hinputs))

/-- Settles O13. -/
theorem startWhileBusyIsIgnored : Obligations.StartWhileBusyIsIgnored :=
  fun _ _ _ _ _ hinputs hbusy => step_busy_with_input hinputs hbusy rfl

/-- Settles O14. -/
theorem textWriteWhileBusyIsDropped : Obligations.TextWriteWhileBusyIsDropped :=
  fun _ _ _ _ _ hinputs hbusy =>
    ⟨step_busy_with_input hinputs hbusy rfl, fun _ => step_text_of_writeIgnored hinputs (.inr (.inl hbusy))⟩

/-- Settles O47: every operation is its layout's run, and that asks first whether a transaction is running. -/
theorem nothingRunsOutsideATransaction : Obligations.NothingRunsOutsideATransaction := fun i s hrest => by
  rw [exec_eq_runOperation, runOperation, if_pos hrest]

end Sys2Proof.Machine

/-! The outcome follows from the request alone (70_reset_and_hazards.md R279, R280). `Running` asks for clear outputs, which an
accepted start leaves (R277); the outcome does not rest on them, because the stage that enters DONE writes both STATUS and
RESULT. So it is fixed already by the operation, the legal request and the stages still to come: `Underway`. -/

namespace Sys2Proof.Machine

section Delivers

variable {op : Operation} {outcome : Status × U128} {s : State}

/-- The next stage can be taken, and the same outcome is still to come. -/
theorem Delivers.next_stage (h : Delivers op outcome s ∧ s.phase ≠ .idle) :
    ∃ t, Machine.runStage op s = .next t ∧ Delivers op outcome t ∧ t.phase ≠ .idle := by
  obtain ⟨hs, hidle⟩ := h
  obtain ⟨t, hrun⟩ := hs.runStage_answers
  have hcode := runStage_code hidle hrun
  exact ⟨t, hrun, hs.runStage hidle hrun, t.phase.ne_idle_iff.mpr (by omega)⟩

/-- The stages of an edge before the last of LATENCY can be taken, and the same outcome is still to come. -/
theorem Delivers.advance_answers (h : Delivers op outcome s) (hidle : s.phase ≠ .idle) (n : Nat) :
    ∃ t, advance op n s = .next t ∧ Delivers op outcome t := by
  obtain ⟨t, hrun⟩ := Machine.advance_answers (fun _ => Delivers.next_stage) n ⟨h, hidle⟩
  have hkept := advance_induction (P := fun s => Delivers op outcome s ∧ s.phase ≠ .idle)
    (fun u v hu hstep _ => by
      obtain ⟨w, hstep', hw⟩ := Delivers.next_stage hu
      exact Host.Outcome.next.inj (hstep'.symm.trans hstep) ▸ hw) ⟨h, hidle⟩ hrun
  exact ⟨t, hrun, hkept.1⟩

end Delivers

/-- A transaction of the operation `i` is running, whatever STATUS and RESULT hold, and this outcome is to come. -/
structure Underway (i : Instr) (outcome : Status × U128) (s : State) : Prop where
  decodes : decode s.cmd = .instr i
  legal : cmdLegal s.cmd s.len = true
  busy : s.phase.isBusy = true
  delivers : Delivers (operationOf i) outcome s

section Underway

variable {i : Instr} {outcome : Status × U128} {s : State}

/-- At the beginning of TOKENIZE the flat outcome of the literal is to come (R211). -/
theorem underway_of_tokenize (hphase : s.phase = .tokenize) (hdecode : decode s.cmd = .instr i)
    (hlegal : cmdLegal s.cmd s.len = true) : Underway i (flatOutcome (operationOf i) (literalBytes s)) s := by
  have hbusy : s.phase.isBusy = true := by rw [hphase]; rfl
  have hfrac : (operationOf i).frac ≤ (operationOf i).width.bits := by simpa using frac_le_of_decode hdecode
  have hlen := len_le_of_cmdLegal hlegal
  obtain ⟨t, hrun, -, hstatus, hresult, -⟩ := runOperation_endsWith_flatOutcome hphase hfrac hlen
  rw [runOperation_legal hbusy hfrac hlen] at hrun
  exact ⟨hdecode, hlegal, hbusy, t, hrun, Prod.ext hstatus hresult⟩

theorem Underway.elapse (h : Underway i outcome s) (n : Nat) : Underway i outcome (elapse n s) :=
  ⟨h.decodes, h.legal, h.busy, h.delivers.retime _ _ _⟩

/-- An edge before the last of LATENCY leaves the transaction under way. -/
theorem Underway.step_earlier (h : Underway i outcome s) (hreset : (currentInput s).rst = false)
    (hleft : 2 ≤ s.busyLeft) :
    ∃ t, step s = .next t ∧ Underway i outcome t ∧ SameRequest (Machine.elapse 1 s) t := by
  have hlater := h.elapse 1
  obtain ⟨t, hrun, ht⟩ := hlater.delivers.advance_answers
    ((Machine.elapse 1 s).phase.isBusy_iff.mp hlater.busy).1 (Config.stagesAtEdge (Machine.elapse 1 s).tick)
  have hsame := advance_sameRequest hrun
  have hstep : step s = .next t := by
    rw [step_eq_busyEdge hreset h.busy, busyEdge_of_earlier (s := nextEdge s) h.decodes hleft, nextEdge_busyLeft,
      setBusyLeft_nextEdge, holdEdge, if_pos (operationLegal_of_cmdLegal hlater.decodes hlater.legal), hrun]
  exact ⟨t, hstep, ⟨hsame.cmd ▸ h.decodes, hsame.cmd ▸ hsame.len ▸ h.legal, advance_busy hlater.busy hrun, ht⟩, hsame⟩

/-- The last edge of LATENCY delivers the outcome (R221 step 5). -/
theorem Underway.step_last (h : Underway i outcome s) (hreset : (currentInput s).rst = false) (hleft : s.busyLeft = 1) :
    ∃ t, step s = .next t ∧ t.phase = .done ∧ (t.status, t.result) = outcome := by
  have hlast := h.elapse 1
  obtain ⟨t, hrun, hvalue⟩ := hlast.delivers
  have hedge : setBusyLeft 0 (nextEdge s) = Machine.elapse 1 s := by rw [← setBusyLeft_nextEdge, hleft]
  refine ⟨t, ?_, runToDone_phase ((Machine.elapse 1 s).phase.isBusy_iff.mp hlast.busy).1 hrun, hvalue⟩
  rw [step_eq_busyEdge hreset h.busy, busyEdge_of_last (s := nextEdge s) h.decodes hleft.le, hedge,
    exec_legal hlast.busy (frac_le_of_decode h.decodes) (len_le_of_cmdLegal h.legal), hrun]

/-- The edges of LATENCY, however many, end in DONE with the outcome. -/
theorem Underway.run_to_done {n : Nat} (h : Underway i outcome s) (hleft : s.busyLeft = n + 1)
    (hreset : NoResetFor (n + 1) s) :
    ∃ t, Host.Core.run core (n + 1) s = .next t ∧ t.phase = .done ∧ (t.status, t.result) = outcome := by
  induction n generalizing s with
  | zero =>
    obtain ⟨t, hstep, hend⟩ := h.step_last (hreset.now (by omega)) hleft
    exact ⟨t, run_of_step hstep 0, hend⟩
  | succ n ih =>
    obtain ⟨u, hstep, hu, hsame⟩ := h.step_earlier (hreset.now (by omega)) (by omega)
    have huleft : u.busyLeft = n + 1 := by rw [hsame.busyLeft]; exact congrArg (· - 1) hleft
    obtain ⟨t, hrun, hend⟩ := ih hu huleft (hreset.later hsame.inputs)
    exact ⟨t, (run_of_step hstep _).trans hrun, hend⟩

end Underway

/-- A transaction run from TOKENIZE through all edges of its LATENCY ends with the flat outcome of its literal. -/
theorem run_from_tokenize {s : State} {i : Instr} (hphase : s.phase = .tokenize) (hdecode : decode s.cmd = .instr i)
    (hlegal : cmdLegal s.cmd s.len = true) (hleft : 1 ≤ s.busyLeft) (hreset : NoResetFor s.busyLeft s) :
    ∃ t, Host.Core.run core s.busyLeft s = .next t ∧ t.phase = .done
      ∧ (t.status, t.result) = flatOutcome (operationOf i) (literalBytes s) := by
  obtain ⟨n, hn⟩ := Nat.exists_eq_add_of_le' hleft
  rw [hn] at hreset ⊢
  exact (underway_of_tokenize hphase hdecode hlegal).run_to_done hn hreset

/-- Settles O52: both transactions end with the one flat outcome of their common request. -/
theorem sameRequestSameOutcome : Obligations.SameRequestSameOutcome := by
  intro s u hs hu hlegal hcmd hlen htext hsleft huleft hsreset hureset
  obtain ⟨-, i, hdecode⟩ := (legalExactlyWhenDecodable _ _).mp hlegal
  obtain ⟨t, hrun, hdone, hvalue⟩ := run_from_tokenize hs hdecode hlegal hsleft hsreset
  obtain ⟨v, hrun', hdone', hvalue'⟩ :=
    run_from_tokenize hu (hcmd.symm ▸ hdecode) (hcmd.symm ▸ hlen.symm ▸ hlegal) huleft hureset
  rw [htext, ← hvalue] at hvalue'
  exact ⟨t, v, hrun, hrun', hdone, hdone', outputs_congr_of_done hdone hdone' hvalue'.symm⟩

end Sys2Proof.Machine
